-- ==== Sys2Proof/Word.lean ====
section
/-! DEFINITION. The word types of CORE (spec/10_state.md, spec/30_encoding.md): bytes, 16-bit words, instruction
fields, register and key numbers. -/

namespace Sys2Proof

/-- A byte: a general register (R21), a timer (R29, R30), a memory cell (R37), the immediate `nn` (R84). -/
abbrev Byte := BitVec 8

/-- A 16-bit word: an instruction (R80), the address register I (R25), the program counter (R26), a return
address (R28). -/
abbrev Word := BitVec 16

/-- A 4-bit instruction field (R80, R83). -/
abbrev Nibble := BitVec 4

/-- The 12-bit address immediate `nnn` (R84). -/
abbrev Addr12 := BitVec 12

/-- A register index, 0 to 15: every value is a legal register (R82). -/
abbrev Reg := Fin 16

/-- A hexadecimal key, 0 to 15 (R31). A key number above 15 is outside the host's contract (R216 to R218) and
cannot be written down (log 6). -/
abbrev Key := Fin 16

end Sys2Proof
end

