-- ==== Sys2Proof/Syntax.lean ====
section
/-! DEFINITION. The 35 instructions of CORE, one constructor per row of spec/opcode_table.json and of
spec/30_encoding.md R87, in the table's order. -/

namespace Sys2Proof

/-- An instruction (R87). Fields are those of R81 to R84. The words of R89 outside family 0 have no row and no
constructor: the decoder names them and the cycle executes them as NOP (R88, R103; log 13). -/
inductive Instr where
  /-- 00E0: clear the display (R170). -/
  | cls
  /-- 00EE: return from subroutine (R110). -/
  | ret
  /-- 0NNN but for 00E0 and 00EE: executes as NOP (R103). -/
  | sys (nnn : Addr12)
  /-- 1NNN: jump (R111). -/
  | jp (nnn : Addr12)
  /-- 2NNN: call subroutine (R112). -/
  | call (nnn : Addr12)
  /-- 3XNN: skip if Vx equals nn (R113). -/
  | seImm (x : Reg) (nn : Byte)
  /-- 4XNN: skip if Vx does not equal nn (R114). -/
  | sneImm (x : Reg) (nn : Byte)
  /-- 5XY0: skip if Vx equals Vy (R115). -/
  | seReg (x y : Reg)
  /-- 6XNN: load immediate (R130). -/
  | ldImm (x : Reg) (nn : Byte)
  /-- 7XNN: add immediate, no flag (R131). -/
  | addImm (x : Reg) (nn : Byte)
  /-- 8XY0: copy register (R132). -/
  | ldReg (x y : Reg)
  /-- 8XY1: bitwise OR (R133). -/
  | orReg (x y : Reg)
  /-- 8XY2: bitwise AND (R134). -/
  | andReg (x y : Reg)
  /-- 8XY3: bitwise exclusive OR (R135). -/
  | xorReg (x y : Reg)
  /-- 8XY4: add, carry into VF (R136). -/
  | addReg (x y : Reg)
  /-- 8XY5: subtract Vy from Vx (R137). -/
  | subReg (x y : Reg)
  /-- 8XY6: shift Vx right by one; y is encoded and ignored (R138). -/
  | shr (x y : Reg)
  /-- 8XY7: subtract Vx from Vy into Vx (R139). -/
  | subnReg (x y : Reg)
  /-- 8XYE: shift Vx left by one; y is encoded and ignored (R140). -/
  | shl (x y : Reg)
  /-- 9XY0: skip if Vx does not equal Vy (R116). -/
  | sneReg (x y : Reg)
  /-- ANNN: load the address register (R150). -/
  | ldI (nnn : Addr12)
  /-- BNNN: jump to nnn plus V0 (R117). -/
  | jpV0 (nnn : Addr12)
  /-- CXNN: random byte masked by nn (R141). -/
  | rnd (x : Reg) (nn : Byte)
  /-- DXYN: draw an n-row sprite at (Vx, Vy) (R172). -/
  | drw (x y : Reg) (n : Nibble)
  /-- EX9E: skip if the key named by Vx is held (R180). -/
  | skp (x : Reg)
  /-- EXA1: skip if the key named by Vx is not held (R181). -/
  | sknp (x : Reg)
  /-- FX07: read the delay timer (R183). -/
  | ldVxDt (x : Reg)
  /-- FX0A: wait for a key press (R184). -/
  | ldVxK (x : Reg)
  /-- FX15: set the delay timer (R185). -/
  | ldDtVx (x : Reg)
  /-- FX18: set the sound timer (R186). -/
  | ldStVx (x : Reg)
  /-- FX1E: add Vx to the address register (R151). -/
  | addIVx (x : Reg)
  /-- FX29: point I at the glyph for Vx (R152). -/
  | ldFVx (x : Reg)
  /-- FX33: store the decimal digits of Vx at I (R153). -/
  | ldBVx (x : Reg)
  /-- FX55: store V0 through Vx at I (R154). -/
  | storeRegs (x : Reg)
  /-- FX65: load V0 through Vx from I (R155). -/
  | loadRegs (x : Reg)
  deriving DecidableEq, Repr

end Sys2Proof
end

