-- ==== Sys2Proof/Decode.lean ====
section
/-! DEFINITION. The decoder and the encoder of spec/30_encoding.md: the fields of R80 to R84, the opcode map of R87
as a list of rows, decoding by R88, and the words of well-formed instructions by R86 and R87. -/

namespace Sys2Proof

/-- Field `op = w[15:12]` (R81). -/
def opOf (w : Word) : Nibble := w.extractLsb' 12 4

/-- Field `x = w[11:8]`, a register index (R82). -/
def xOf (w : Word) : Reg := (w.extractLsb' 8 4).toFin

/-- Field `y = w[7:4]`, a register index (R82). -/
def yOf (w : Word) : Reg := (w.extractLsb' 4 4).toFin

/-- Field `n = w[3:0]` (R83). -/
def nOf (w : Word) : Nibble := w.extractLsb' 0 4

/-- Field `nn = w[7:0]` (R84). -/
def nnOf (w : Word) : Byte := w.extractLsb' 0 8

/-- Field `nnn = w[11:0]` (R84). -/
def nnnOf (w : Word) : Addr12 := w.extractLsb' 0 12

/-- A row of the opcode map (R87): the mask of the fixed bits, their values, and the instruction the fields give. -/
structure Row where
  mask  : Word
  value : Word
  build : Word → Instr

/-- A word belongs to a row when its fixed bits are the row's (R88). -/
def Row.fits (r : Row) (w : Word) : Bool := w &&& r.mask == r.value

/-- The opcode map (R87) in the table's order; CLS and RET stand before SYS (R88). -/
def rows : List Row :=
  [⟨0xFFFF, 0x00E0, fun _ => .cls⟩,
   ⟨0xFFFF, 0x00EE, fun _ => .ret⟩,
   ⟨0xF000, 0x0000, fun w => .sys (nnnOf w)⟩,
   ⟨0xF000, 0x1000, fun w => .jp (nnnOf w)⟩,
   ⟨0xF000, 0x2000, fun w => .call (nnnOf w)⟩,
   ⟨0xF000, 0x3000, fun w => .seImm (xOf w) (nnOf w)⟩,
   ⟨0xF000, 0x4000, fun w => .sneImm (xOf w) (nnOf w)⟩,
   ⟨0xF00F, 0x5000, fun w => .seReg (xOf w) (yOf w)⟩,
   ⟨0xF000, 0x6000, fun w => .ldImm (xOf w) (nnOf w)⟩,
   ⟨0xF000, 0x7000, fun w => .addImm (xOf w) (nnOf w)⟩,
   ⟨0xF00F, 0x8000, fun w => .ldReg (xOf w) (yOf w)⟩,
   ⟨0xF00F, 0x8001, fun w => .orReg (xOf w) (yOf w)⟩] ++
  [⟨0xF00F, 0x8002, fun w => .andReg (xOf w) (yOf w)⟩,
   ⟨0xF00F, 0x8003, fun w => .xorReg (xOf w) (yOf w)⟩,
   ⟨0xF00F, 0x8004, fun w => .addReg (xOf w) (yOf w)⟩,
   ⟨0xF00F, 0x8005, fun w => .subReg (xOf w) (yOf w)⟩,
   ⟨0xF00F, 0x8006, fun w => .shr (xOf w) (yOf w)⟩,
   ⟨0xF00F, 0x8007, fun w => .subnReg (xOf w) (yOf w)⟩,
   ⟨0xF00F, 0x800E, fun w => .shl (xOf w) (yOf w)⟩,
   ⟨0xF00F, 0x9000, fun w => .sneReg (xOf w) (yOf w)⟩,
   ⟨0xF000, 0xA000, fun w => .ldI (nnnOf w)⟩,
   ⟨0xF000, 0xB000, fun w => .jpV0 (nnnOf w)⟩,
   ⟨0xF000, 0xC000, fun w => .rnd (xOf w) (nnOf w)⟩,
   ⟨0xF000, 0xD000, fun w => .drw (xOf w) (yOf w) (nOf w)⟩] ++
  [⟨0xF0FF, 0xE09E, fun w => .skp (xOf w)⟩,
   ⟨0xF0FF, 0xE0A1, fun w => .sknp (xOf w)⟩,
   ⟨0xF0FF, 0xF007, fun w => .ldVxDt (xOf w)⟩,
   ⟨0xF0FF, 0xF00A, fun w => .ldVxK (xOf w)⟩,
   ⟨0xF0FF, 0xF015, fun w => .ldDtVx (xOf w)⟩,
   ⟨0xF0FF, 0xF018, fun w => .ldStVx (xOf w)⟩,
   ⟨0xF0FF, 0xF01E, fun w => .addIVx (xOf w)⟩,
   ⟨0xF0FF, 0xF029, fun w => .ldFVx (xOf w)⟩,
   ⟨0xF0FF, 0xF033, fun w => .ldBVx (xOf w)⟩,
   ⟨0xF0FF, 0xF055, fun w => .storeRegs (xOf w)⟩,
   ⟨0xF0FF, 0xF065, fun w => .loadRegs (xOf w)⟩]

/-- Decode one word (R88): the first row it fits. `none` is a word of R89 (b) to (f), which matches no row. -/
def decodeWord (w : Word) : Option Instr :=
  (rows.find? (·.fits w)).map (·.build w)

/-- Why the decoder gives no instruction. -/
inductive Reject where
  /-- Fewer than the two bytes every instruction has (R80, R91). -/
  | truncated
  /-- A word that matches no row (R89 (b) to (f)); it executes as NOP (R88, R103), see `execute`. -/
  | noRow (w : Word)
  deriving DecidableEq, Repr

/-- An instruction word is big-endian: the byte at the lower address is the high byte (R55). -/
def wordOfBytes (hi lo : Byte) : Word := hi ++ lo

/-- Decode the instruction at the front of a byte string: always exactly two bytes (R91); the rest is returned. -/
def decode : List Byte → Except Reject (Instr × List Byte)
  | hi :: lo :: rest =>
    match decodeWord (wordOfBytes hi lo) with
    | some i => .ok (i, rest)
    | none => .error (.noRow (wordOfBytes hi lo))
  | _ => .error .truncated

/-- A register index as its 4-bit field (R82). -/
def regField (x : Reg) : Nibble := BitVec.ofFin x

/-- Format NNN of R86: op and the 12-bit address. -/
def wordNNN (op : Nibble) (nnn : Addr12) : Word := op ++ nnn

/-- Format XNN of R86: op, x and the 8-bit immediate. -/
def wordXNN (op : Nibble) (x : Reg) (nn : Byte) : Word := op ++ regField x ++ nn

/-- Formats XYS and XYN of R86: op, x, y and the low nibble. -/
def wordXYN (op : Nibble) (x y : Reg) (n : Nibble) : Word := op ++ regField x ++ regField y ++ n

/-- The word of an instruction (R86, R87). -/
def encode : Instr → Word
  | .cls => 0x00E0
  | .ret => 0x00EE
  | .sys nnn => wordNNN 0x0 nnn
  | .jp nnn => wordNNN 0x1 nnn
  | .call nnn => wordNNN 0x2 nnn
  | .seImm x nn => wordXNN 0x3 x nn
  | .sneImm x nn => wordXNN 0x4 x nn
  | .seReg x y => wordXYN 0x5 x y 0x0
  | .ldImm x nn => wordXNN 0x6 x nn
  | .addImm x nn => wordXNN 0x7 x nn
  | .ldReg x y => wordXYN 0x8 x y 0x0
  | .orReg x y => wordXYN 0x8 x y 0x1
  | .andReg x y => wordXYN 0x8 x y 0x2
  | .xorReg x y => wordXYN 0x8 x y 0x3
  | .addReg x y => wordXYN 0x8 x y 0x4
  | .subReg x y => wordXYN 0x8 x y 0x5
  | .shr x y => wordXYN 0x8 x y 0x6
  | .subnReg x y => wordXYN 0x8 x y 0x7
  | .shl x y => wordXYN 0x8 x y 0xE
  | .sneReg x y => wordXYN 0x9 x y 0x0
  | .ldI nnn => wordNNN 0xA nnn
  | .jpV0 nnn => wordNNN 0xB nnn
  | .rnd x nn => wordXNN 0xC x nn
  | .drw x y n => wordXYN 0xD x y n
  | .skp x => wordXNN 0xE x 0x9E
  | .sknp x => wordXNN 0xE x 0xA1
  | .ldVxDt x => wordXNN 0xF x 0x07
  | .ldVxK x => wordXNN 0xF x 0x0A
  | .ldDtVx x => wordXNN 0xF x 0x15
  | .ldStVx x => wordXNN 0xF x 0x18
  | .addIVx x => wordXNN 0xF x 0x1E
  | .ldFVx x => wordXNN 0xF x 0x29
  | .ldBVx x => wordXNN 0xF x 0x33
  | .storeRegs x => wordXNN 0xF x 0x55
  | .loadRegs x => wordXNN 0xF x 0x65

/-- The two bytes of a word as they stand in memory, the high byte first (R55). -/
def bytesOfWord (w : Word) : List Byte := [w.extractLsb' 8 8, w.extractLsb' 0 8]

/-- The bytes of an instruction in memory (R55, R80). -/
def encodeBytes (i : Instr) : List Byte := bytesOfWord (encode i)

/-- The instruction word whose bits are `w`, of which the table gives `nbits` and the rest are 0. CORE's
instructions are one word (R80), so a later word is no part of it. -/
def tableWord (nbits w : Nat) : Word := BitVec.ofNat 16 (w % 2 ^ nbits)

/-- What the decoder reads from the instruction whose bits are `w`, numbered as spec/opcode_table.json numbers
them, laid out in memory order. -/
def decodeTableWord (nbits w : Nat) : Option Instr :=
  match decode (bytesOfWord (tableWord nbits w)) with
  | .ok (i, _) => some i
  | .error _ => none

end Sys2Proof
end

