-- ==== Sys2Proof/Config.lean ====
section
/-! DEFINITION. What is fixed for this hardware (spec/00_scope.md R7) and the free values: what the spec leaves to
the host and this model does not choose (spec/93_implementation_defined.md I1, I12). -/

namespace Sys2Proof.Config

/-- MEM_SIZE (R7, R50). -/
abbrev memSize : Nat := 4096

/-- STACK_DEPTH (R7, R28; decision D16; log 11). -/
abbrev stackDepth : Nat := 24

/-- PC_RESET and PROGRAM_BASE (R7, R26, R59). -/
abbrev programBase : Nat := 0x200

/-- FONT_BASE (R7, R58). -/
abbrev fontBase : Nat := 0x000

/-- MAX_PROGRAM (R7, R59). -/
abbrev maxProgram : Nat := 3584

/-- DISPLAY_W (R7, R32). -/
abbrev displayW : Nat := 64

/-- DISPLAY_H (R7, R32). -/
abbrev displayH : Nat := 32

/-- The TIMER_RATE in ticks a second (R7, R211). -/
abbrev timerRate : Nat := 60

/-- One second in the TIME_UNIT, nanoseconds (R7, R211). -/
abbrev second : Nat := 1000000000

/-- FONT, the default table (R57), glyph k at bytes 5k to 5k + 4.
PRESUMED (log 8): the spec takes these bytes from general knowledge (R57, D28, G1). -/
@[irreducible] def font : List Byte :=
  [0xF0, 0x90, 0x90, 0x90, 0xF0] ++ [0x20, 0x60, 0x20, 0x20, 0x70] ++
  [0xF0, 0x10, 0xF0, 0x80, 0xF0] ++ [0xF0, 0x10, 0xF0, 0x10, 0xF0] ++
  [0x90, 0x90, 0xF0, 0x10, 0x10] ++ [0xF0, 0x80, 0xF0, 0x10, 0xF0] ++
  [0xF0, 0x80, 0xF0, 0x90, 0xF0] ++ [0xF0, 0x10, 0x20, 0x40, 0x40] ++
  [0xF0, 0x90, 0xF0, 0x90, 0xF0] ++ [0xF0, 0x90, 0xF0, 0x10, 0xF0] ++
  [0xF0, 0x90, 0xF0, 0x90, 0x90] ++ [0xE0, 0x90, 0xE0, 0x90, 0xE0] ++
  [0xF0, 0x80, 0x80, 0x80, 0xF0] ++ [0xE0, 0x90, 0x90, 0x90, 0xE0] ++
  [0xF0, 0x80, 0xF0, 0x80, 0xF0] ++ [0xF0, 0x80, 0xF0, 0x80, 0x80]

/-- Free value: the byte `RandomByte()` gives at draw `k` beyond the bytes the host's side of State lists (R222,
D33: a free draw, under no law). No body: no proof can use its value. Log 4. -/
opaque randomByte : Nat → Byte

/-- Free value: the nanoseconds that pass before cycle `k` beyond the host's schedule (R212, D22: `now` is an input
under no law but that it does not decrease). No body. Log 2. -/
opaque idleElapsed : Nat → Nat

end Sys2Proof.Config
end

