-- ==== Sys2Proof/Machine/State.lean ====
section
/-! DEFINITION. The state of CORE (spec/10_state.md R20, R41), the reasons a step can stop, and the state after
reset (R42). The last field, `host`, is the model's own: the inputs the host supplies (R14, R225) as plain data. -/

namespace Sys2Proof.Machine

/-- No step of this model ends in a fault. The five faults of R201 are the state `Mode.faulted` with its fault
record (R202), which is a next state and no stop (log 12): nobody raises a `Fault`, which is safe, since nothing
can be proved from a stop that does not happen. -/
inductive Fault where
  deriving DecidableEq, Repr

/-- Why a step has no meaning. No instruction is refused. -/
inductive Refusal where
  /-- An instruction without a meaning yet. Raised by an arm of `exec` only, and by none of them now. Safe. -/
  | notModelled (mnemonic : String)
  /-- A font or program load after the first cycle since reset, or a second one (R67, R223, R225: no move), a retry
  after a rejected load among them (log 18). Raised by the host moves `loadFont` and `loadProgram`. Safe (log 7). -/
  | loadOutsideBoot
  /-- A cycle on an image whose load was rejected (R59: CORE must not be run on it; R242). Raised by a cycle. Safe
  (log 7). -/
  | runOnRejectedImage
  deriving DecidableEq, Repr

/-- The execution mode (R34). -/
inductive Mode where
  /-- Executes one instruction a cycle. -/
  | running
  /-- Waits for `deliver_key`, which writes register `t` (R216). -/
  | awaitingKey (t : Reg)
  /-- Halted by a fault until reset (R204). -/
  | faulted
  deriving DecidableEq, Repr

/-- The fault causes (R201). -/
inductive FaultCause where
  /-- Code 0, the reset value. -/
  | none
  /-- Code 1, raised by 2NNN. -/
  | stackOverflow
  /-- Code 2, raised by 00EE. -/
  | stackUnderflow
  /-- Code 3, raised by the fetch. -/
  | fetchOutOfRange
  /-- Code 4, raised by DXYN and FX65. -/
  | readOutOfRange
  /-- Code 5, raised by FX33 and FX55. -/
  | writeOutOfRange
  deriving DecidableEq, Repr

/-- The fault record (R35): cause, the address of the instruction, and a 17-bit address. -/
structure FaultRecord where
  cause : FaultCause
  pc    : Word
  addr  : BitVec 17
  deriving DecidableEq, Repr

/-- Memory (R37): address and byte pairs, in the canonical form `Memory.wf`; an unlisted address reads 0x00, its
reset value (R42; log 10). -/
abbrev Memory := List Host.Cell

/-- The display surface (R32): 32 rows, top to bottom, of 64 pixels, left to right. -/
abbrev Display := Vector (Vector Bool 64) 32

/-- A host event of phase 1 (R216 to R218, R220). -/
inductive HostEvent where
  | keyDown (k : Key)
  | keyUp (k : Key)
  | deliverKey (k : Key)
  | ackDisplay
  deriving DecidableEq, Repr

/-- A move of the host at a cycle boundary (R225). A cycle's time is given as the nanoseconds since the last `now`, so
that `now` cannot decrease from cycle to cycle (R212; log 5). -/
inductive HostMove where
  /-- Call a cycle with these events and the next `now` (R100). -/
  | cycle (events : List HostEvent) (elapsed : Nat)
  /-- Assert reset (R240), supplying any `now`, a past one too: DESIGN CHOICE (log 19). -/
  | reset (now : Nat)
  /-- Load the font (R58). -/
  | loadFont
  /-- Load a program image (R59). -/
  | loadProgram (image : List Byte)
  deriving DecidableEq, Repr

/-- What became of the program load since reset (R59, R242). -/
inductive ImageStatus where
  | notLoaded
  | loaded
  | rejected
  deriving DecidableEq, Repr

/-- The host's side of the state: the model's own fields, not state of CORE (R14, R41; log 1). -/
structure HostSide where
  /-- The host's next moves; beyond them, cycles with no events and free time (log 2). -/
  schedule    : List HostMove
  /-- The last `now` supplied, in nanoseconds (R212). -/
  clock       : Nat
  /-- Cycles run beyond the schedule: the index of the next `Config.idleElapsed`. -/
  idle        : Nat
  /-- The bytes the injected random source gives next (R222); beyond them, free draws (log 4). -/
  randomBytes : List Byte
  /-- Draws made beyond that list: the index of the next `Config.randomByte`. -/
  draws       : Nat
  /-- A cycle has been called since reset (R67, R223; log 7). -/
  started     : Bool
  /-- The font was loaded since reset (R225; log 7). -/
  fontLoaded  : Bool
  /-- The program load since reset (R59; log 7). -/
  image       : ImageStatus
  deriving DecidableEq, Repr

/-- The state: the tuple of R20, in its order, and the host's side. -/
structure State where
  /-- Memory (R37). -/
  mem      : Memory
  /-- V0 to VF (R21); VF is the flag register (R22). -/
  v        : Vector Byte 16
  /-- The address register I (R25). -/
  i        : Word
  /-- The program counter (R26). -/
  pc       : Word
  /-- The call stack's entries (R28). -/
  stack    : Vector Word 24
  /-- SP, the number of entries in use, 0 to 24 (R28). -/
  sp       : Fin 25
  /-- The delay timer (R29). -/
  dt       : Byte
  /-- The sound timer (R30). -/
  st       : Byte
  /-- The time of the last timer decrement, in nanoseconds (R36). -/
  lastTick : Nat
  /-- The keyboard mask (R31). -/
  keys     : BitVec 16
  /-- The display surface D (R32). -/
  display  : Display
  /-- The dirty flag (R33). -/
  dirty    : Bool
  /-- The execution mode (R34). -/
  mode     : Mode
  /-- The fault record (R35). -/
  fault    : FaultRecord
  /-- The host's side (log 1). -/
  host     : HostSide
  deriving DecidableEq, Repr

/-- Right after reset (R42, R240), at `now` = 0 and with nothing scheduled: the host's side and the value of `now`
are DESIGN CHOICE (log 1 to 4, 7). Font and program are not loaded yet (R242). -/
def State.reset : State where
  mem := []
  v := Vector.replicate 16 0
  i := 0
  pc := 0x200
  stack := Vector.replicate 24 0
  sp := 0
  dt := 0
  st := 0
  lastTick := 0
  keys := 0
  display := Vector.replicate 32 (Vector.replicate 64 false)
  dirty := false
  mode := .running
  fault := { cause := .none, pc := 0, addr := 0 }
  host :=
    { schedule := [], clock := 0, idle := 0, randomBytes := [], draws := 0, started := false,
      fontLoaded := false, image := .notLoaded }

end Sys2Proof.Machine
end

