-- ==== Sys2Proof/Machine/Ops.lean ====
section
/-! DEFINITION. The named operations over memory, the program counter, the call stack, the host's side and the
fault record (spec/00_scope.md R12, R13; spec/20_memory.md; spec/60_exceptions.md R201 to R203). -/

namespace Sys2Proof.Machine

/-- The outcome of an instruction, an event or a step. -/
abbrev Result := Host.Outcome State Fault Refusal

/-! ### Memory -/

/-- The canonical form of memory: addresses strictly rising, all inside the address space (R50), no entry equal to
what an unlisted address reads as. -/
abbrev Memory.wf (m : Memory) : Prop :=
  m.Pairwise (fun c d => c.1 < d.1) ∧ ∀ c ∈ m, c.1 < Config.memSize ∧ c.2 ≠ 0

/-- What an unlisted address reads as: the reset value of a memory byte (R42; log 10). -/
def unlistedByte : Byte := 0

/-- The byte at an address (R12), for an address inside the address space. -/
def readByte : Memory → Nat → Byte
  | [], _ => unlistedByte
  | (b, w) :: m, a => if b = a then w else readByte m a

/-- Put a cell before the first cell of a greater address. -/
def insertCell (c : Host.Cell) : Memory → Memory
  | [] => [c]
  | d :: m => if c.1 < d.1 then c :: d :: m else d :: insertCell c m

/-- Write one byte (R12, R60), keeping the canonical form. -/
def writeByte (m : Memory) (a : Nat) (b : Byte) : Memory :=
  let rest := m.filter (fun c => c.1 != a)
  if b = unlistedByte then rest else insertCell (a, b) rest

/-- An address above 0xFFF does not exist (R54). -/
def outOfRange (a : Nat) : Bool := 0xFFF < a

/-- Read `n` bytes from address `a` upwards (R12, R60), or the lowest address out of range (R205). -/
def readBytes (m : Memory) (a : Nat) : Nat → Except Nat (List Byte)
  | 0 => .ok []
  | n + 1 =>
    if outOfRange a then .error a
    else match readBytes m (a + 1) n with
      | .ok bs => .ok (readByte m a :: bs)
      | .error e => .error e

/-- Write bytes from address `a` upwards in order (R12, R60), or the lowest address out of range (R205); on an
error there is no memory to keep, so no byte lands (R203). -/
def writeBytes (m : Memory) (a : Nat) : List Byte → Except Nat Memory
  | [] => .ok m
  | b :: bs => if outOfRange a then .error a else writeBytes (writeByte m a b) (a + 1) bs

/-! ### The fields of the state -/

/-- `pc <- a` (R11). -/
def setPc (a : Word) (s : State) : State := { s with pc := a }

/-- `I <- a` (R25). -/
def setI (a : Word) (s : State) : State := { s with i := a }

/-- `DT <- b` (R29). -/
def setDt (b : Byte) (s : State) : State := { s with dt := b }

/-- `ST <- b` (R30). -/
def setSt (b : Byte) (s : State) : State := { s with st := b }

/-- Memory after a store. -/
def setMem (m : Memory) (s : State) : State := { s with mem := m }

/-- The whole register file. -/
def setRegs (v : Vector Byte 16) (s : State) : State := { s with v := v }

/-- `keys <- k` (R31). -/
def setKeys (k : BitVec 16) (s : State) : State := { s with keys := k }

/-- `mode <- m` (R34). -/
def setMode (m : Mode) (s : State) : State := { s with mode := m }

/-- `dirty <- b` (R33). -/
def setDirty (b : Bool) (s : State) : State := { s with dirty := b }

/-- A new display surface (R32). -/
def setDisplay (d : Display) (s : State) : State := { s with display := d }

/-- The host's side of the state. -/
def setHost (h : HostSide) (s : State) : State := { s with host := h }

/-- `pc <- A + 2` (R102). The sum is 16-bit; after a fetch it cannot overflow (R27; log 14). -/
def advance (s : State) : State := setPc (s.pc + 2) s

/-- A skip: `pc <- A + 4` when it is taken, else `A + 2` (R102, D2). -/
def skipIf (taken : Bool) (s : State) : State := setPc (if taken then s.pc + 4 else s.pc + 2) s

/-! ### The call stack (R28) -/

/-- Push a return address: `stack[SP] <- a`, `SP <- SP + 1`; no state when SP = STACK_DEPTH (R112). -/
def pushReturn (a : Word) (s : State) : Option State :=
  if h : s.sp.val < Config.stackDepth then
    some { s with stack := s.stack.set s.sp.val a h, sp := ⟨s.sp.val + 1, Nat.succ_lt_succ h⟩ }
  else none

/-- Pop a return address: `SP <- SP - 1`, then `stack[SP]`, which is not cleared; none when SP = 0 (R110). -/
def popReturn (s : State) : Option (Word × State) :=
  match s.sp with
  | ⟨0, _⟩ => none
  | ⟨n + 1, h⟩ => some (s.stack[n]'(Nat.lt_of_succ_lt_succ h), { s with sp := ⟨n, Nat.lt_of_succ_lt h⟩ })

/-! ### Faults -/

/-- The codes of the causes (R201). -/
def FaultCause.code : FaultCause → BitVec 3
  | .none => 0
  | .stackOverflow => 1
  | .stackUnderflow => 2
  | .fetchOutOfRange => 3
  | .readOutOfRange => 4
  | .writeOutOfRange => 5

/-- Fault entry, `raise F(addr)` (R13, R202): on the state as it was before the instruction, so that every write of
the instruction is discarded (R203); pc keeps the value A, which the record saves. CORE has no return from a fault:
only reset leaves Faulted (R204, R208; `resetAt`). An address of R201 fits in 17 bits (R35; log 16). -/
def raise (c : FaultCause) (addr : Nat) (s : State) : State :=
  { s with mode := .faulted, fault := { cause := c, pc := s.pc, addr := BitVec.ofNat 17 addr } }

/-- The other way out, reset (R42, R240): every element of CORE at its reset value and `last_tick` at the `now` the
host supplies. The host keeps its remaining moves, its random source and its counters, and may load again. -/
def resetAt (now : Nat) (h : HostSide) : State :=
  { State.reset with
    lastTick := now
    host := { h with clock := now, started := false, fontLoaded := false, image := .notLoaded } }

/-! ### The random source -/

/-- `RandomByte()` (R14, R222): the next byte of the injected source, exactly one for each CXNN; beyond the bytes
the host's side lists, a free value (log 4). -/
def randomByte (h : HostSide) : Byte :=
  match h.randomBytes with
  | b :: _ => b
  | [] => Config.randomByte h.draws

/-- The host's side after one draw. -/
def afterDraw (h : HostSide) : HostSide :=
  match h.randomBytes with
  | _ :: bs => { h with randomBytes := bs }
  | [] => { h with draws := h.draws + 1 }

end Sys2Proof.Machine
end

