-- ==== Sys2Proof/Machine/Operands.lean ====
section
/-! DEFINITION. The operand forms of CORE: registers (spec/00_scope.md R11, spec/10_state.md R21), the widening of
immediates (spec/30_encoding.md R84), runs of registers (spec/43_load_store.md R154 to R156), decimal digits (R153),
the key a register names (spec/45_keys_timers.md R182). -/

namespace Sys2Proof.Machine

/-- `V[x]` (R11). -/
def readV (x : Reg) (s : State) : Byte := s.v[x.val]

/-- `V[x] <- b` (R11). -/
def writeV (x : Reg) (b : Byte) (s : State) : State := setRegs (s.v.set x.val b) s

/-- VF, the flag register (R22). -/
def vf : Reg := 15

/-- A 12-bit address widened to 16 bits with zeros (R84). -/
def widenAddr (nnn : Addr12) : Word := nnn.setWidth 16

/-- A byte widened to 16 bits with zeros. -/
def widenByte (b : Byte) : Word := b.setWidth 16

/-- The effective address of byte `k` of an access through I, never reduced (R12, R156). -/
def effectiveAddr (s : State) (k : Nat) : Nat := s.i.toNat + k

/-- V0 to Vx in order (R154). -/
def regsUpTo (x : Reg) (s : State) : List Byte := s.v.toList.take (x.val + 1)

/-- Write bytes to the registers from number `k` on, in order (R155). -/
def fillRegs (v : Vector Byte 16) (k : Nat) : List Byte → Vector Byte 16
  | [] => v
  | b :: bs => fillRegs (v.setIfInBounds k b) (k + 1) bs

/-- The decimal digits of a byte: hundreds, tens, ones (R153). -/
def decimalDigits (a : Byte) : List Byte :=
  [BitVec.ofNat 8 (a.toNat / 100), BitVec.ofNat 8 (a.toNat / 10 % 10), BitVec.ofNat 8 (a.toNat % 10)]

/-- `held(a)`: key a is held if a is at most 15 and bit a of the mask is 1 (R182). -/
def held (a : Byte) (s : State) : Bool := a.toNat ≤ 15 && s.keys.getLsbD a.toNat

end Sys2Proof.Machine
end

