-- ==== Sys2Proof/Machine/Flags.lean ====
section
/-! DEFINITION. The flag computations of CORE, each the value an instruction puts in VF (spec/10_state.md R38), and
the write of VF. -/

namespace Sys2Proof.Machine

/-- A flag as the byte VF receives: 0x00 or 0x01. -/
def flagByte (f : Bool) : Byte := if f then 1 else 0

/-- The carry of 8XY4: `a + b > 255` (R136). -/
def carryFlag (a b : Byte) : Byte := flagByte (255 < a.toNat + b.toNat)

/-- The flag of 8XY5 and 8XY7: minuend strictly greater than subtrahend, so 0 at equality (R137, R139, C2). -/
def greaterFlag (a b : Byte) : Byte := flagByte (b.toNat < a.toNat)

/-- The bit 8XY6 shifts out: the old bit 0 (R138). -/
def lowBitFlag (a : Byte) : Byte := a &&& 0x01

/-- The bit 8XYE shifts out: the old bit 7 (R140). -/
def highBitFlag (a : Byte) : Byte := (a >>> 7) &&& 0x01

/-- `V[0xF] <- f` (R22, R38). -/
def setFlag (f : Byte) (s : State) : State := writeV vf f s

end Sys2Proof.Machine
end

