-- ==== Sys2Proof/Machine/Alu.lean ====
section
/-! DEFINITION. The meanings of the register loads and the ALU of spec/42_alu.md: 6XNN, 7XNN, 8XY0 to 8XY7, 8XYE,
CXNN. Every operand is read before the first write, and a later write to the same register wins (R11, R143, D7). -/

namespace Sys2Proof.Machine

/-- 6XNN, LD Vx, nn (R130). -/
def execLdImm (x : Reg) (nn : Byte) (s : State) : Result := .next (advance (writeV x nn s))

/-- 7XNN, ADD Vx, nn, with no flag (R131). -/
def execAddImm (x : Reg) (nn : Byte) (s : State) : Result := .next (advance (writeV x (readV x s + nn) s))

/-- 8XY0, LD Vx, Vy (R132). -/
def execLdReg (x y : Reg) (s : State) : Result := .next (advance (writeV x (readV y s) s))

/-- 8XY1, OR; VF is not reset (R133). -/
def execOrReg (x y : Reg) (s : State) : Result := .next (advance (writeV x (readV x s ||| readV y s) s))

/-- 8XY2, AND; VF is not reset (R134). -/
def execAndReg (x y : Reg) (s : State) : Result := .next (advance (writeV x (readV x s &&& readV y s) s))

/-- 8XY3, XOR; VF is not reset (R135). -/
def execXorReg (x y : Reg) (s : State) : Result := .next (advance (writeV x (readV x s ^^^ readV y s) s))

/-- Write a result and then the flag, which wins when x = F (R136, R137, R139). -/
def writeThenFlag (x : Reg) (r f : Byte) (s : State) : State := setFlag f (writeV x r s)

/-- Write the flag and then a result, which wins when x = F (R138, R140). -/
def flagThenWrite (x : Reg) (r f : Byte) (s : State) : State := writeV x r (setFlag f s)

/-- 8XY4, ADD with carry into VF (R136). -/
def execAddReg (x y : Reg) (s : State) : Result :=
  .next (advance (writeThenFlag x (readV x s + readV y s) (carryFlag (readV x s) (readV y s)) s))

/-- 8XY5, SUB: Vx - Vy, VF = 1 if Vx > Vy (R137). -/
def execSubReg (x y : Reg) (s : State) : Result :=
  .next (advance (writeThenFlag x (readV x s - readV y s) (greaterFlag (readV x s) (readV y s)) s))

/-- 8XY7, SUBN: Vy - Vx, VF = 1 if Vy > Vx (R139). -/
def execSubnReg (x y : Reg) (s : State) : Result :=
  .next (advance (writeThenFlag x (readV y s - readV x s) (greaterFlag (readV y s) (readV x s)) s))

/-- 8XY6, SHR: Vx shifted right by one, y ignored (R138). -/
def execShr (x _y : Reg) (s : State) : Result :=
  .next (advance (flagThenWrite x (readV x s >>> 1) (lowBitFlag (readV x s)) s))

/-- 8XYE, SHL: Vx shifted left by one, y ignored (R140). -/
def execShl (x _y : Reg) (s : State) : Result :=
  .next (advance (flagThenWrite x (readV x s <<< 1) (highBitFlag (readV x s)) s))

/-- CXNN, RND: one random byte masked by nn (R141, R222; the byte is an input, log 4). -/
def execRnd (x : Reg) (nn : Byte) (s : State) : Result :=
  .next (advance (writeV x (randomByte s.host &&& nn) (setHost (afterDraw s.host) s)))

end Sys2Proof.Machine
end

