-- ==== Sys2Proof/Machine/Blit.lean ====
section
/-! DEFINITION. The meanings of the display instructions of spec/44_display.md: 00E0 and DXYN, with the sprite
format (R171), clipping (R173) and the collision detector (R174). -/

namespace Sys2Proof.Machine

/-- The display with every pixel 0 (R170). -/
def clearDisplay : Display := Vector.replicate 32 (Vector.replicate 64 false)

/-- 00E0, CLS (R170). -/
def execCls (s : State) : Result := .next (advance (setDirty true (setDisplay clearDisplay s)))

/-- Toggle the pixel at column `px`, row `py`; off the display it is discarded (R173). The second part is `hit`: it
becomes true when a set pixel is cleared (R174). -/
def togglePixel (px py : Nat) (acc : Display × Bool) : Display × Bool :=
  if h : px < 64 ∧ py < 32 then
    (acc.1.set py (acc.1[py].set px (!acc.1[py][px] : Bool) h.1) h.2, acc.2 || acc.1[py][px])
  else acc

/-- One row of a sprite: bit 7 - c of the byte is column offset c, and a 1 bit toggles (R171, R172).
PRESUMED (log 9): the width and the bit order are the spec's from general knowledge. -/
def blitRow (x0 py : Nat) (row : Byte) (acc : Display × Bool) : Display × Bool :=
  (List.range 8).foldl (fun d c => if row.getLsbD (7 - c) then togglePixel (x0 + c) py d else d) acc

/-- The rows of a sprite, top to bottom, the first at row `y0` (R172). -/
def blitRows (x0 y0 : Nat) : List Byte → Display × Bool → Display × Bool
  | [], acc => acc
  | row :: rest, acc => blitRows x0 (y0 + 1) rest (blitRow x0 y0 row acc)

/-- DXYN, DRW Vx, Vy, n (R172): every row is read first, even a clipped one; then the XOR blit; VF and dirty are
written by every draw that does not fault. -/
def execDrw (x y : Reg) (n : Nibble) (s : State) : Result :=
  match readBytes s.mem (effectiveAddr s 0) n.toNat with
  | .error a => .next (raise .readOutOfRange a s)
  | .ok sprite =>
    let drawn := blitRows (readV x s).toNat (readV y s).toNat sprite (s.display, false)
    .next (advance (setDirty true (setFlag (flagByte drawn.2) (setDisplay drawn.1 s))))

end Sys2Proof.Machine
end

