-- ==== Sys2Proof/Machine/Control.lean ====
section
/-! DEFINITION. The meanings of NOP (spec/40_cycle.md R103) and of the control transfers of
spec/41_control_flow.md: 00EE, 1NNN, 2NNN, 3XNN, 4XNN, 5XY0, 9XY0, BNNN. -/

namespace Sys2Proof.Machine

/-- NOP: the execution of SYS and of every word of R89 (R103). -/
def nop (s : State) : Result := .next (advance s)

/-- 0NNN, SYS: executes as NOP; the field is ignored (R103). -/
def execSys (_nnn : Addr12) (s : State) : Result := nop s

/-- A word that matches no row of the opcode map: NOP (R88, R89, R103). -/
def execNoRow (_w : Word) (s : State) : Result := nop s

/-- 00EE, RET (R110). -/
def execRet (s : State) : Result :=
  match popReturn s with
  | none => .next (raise .stackUnderflow 0 s)
  | some (a, t) => .next (setPc a t)

/-- 1NNN, JP (R111). -/
def execJp (nnn : Addr12) (s : State) : Result := .next (setPc (widenAddr nnn) s)

/-- 2NNN, CALL (R112): the return address is A + 2. -/
def execCall (nnn : Addr12) (s : State) : Result :=
  match pushReturn (s.pc + 2) s with
  | none => .next (raise .stackOverflow 0 s)
  | some t => .next (setPc (widenAddr nnn) t)

/-- 3XNN, SE Vx, nn (R113). -/
def execSeImm (x : Reg) (nn : Byte) (s : State) : Result := .next (skipIf (readV x s == nn) s)

/-- 4XNN, SNE Vx, nn (R114). -/
def execSneImm (x : Reg) (nn : Byte) (s : State) : Result := .next (skipIf (readV x s != nn) s)

/-- 5XY0, SE Vx, Vy (R115). -/
def execSeReg (x y : Reg) (s : State) : Result := .next (skipIf (readV x s == readV y s) s)

/-- 9XY0, SNE Vx, Vy (R116). -/
def execSneReg (x y : Reg) (s : State) : Result := .next (skipIf (readV x s != readV y s) s)

/-- BNNN, JP V0, nnn (R117): a 16-bit sum, not reduced to 12 bits. -/
def execJpV0 (nnn : Addr12) (s : State) : Result :=
  .next (setPc (widenAddr nnn + widenByte (readV 0 s)) s)

end Sys2Proof.Machine
end

