-- ==== Sys2Proof/Machine/Keys.lean ====
section
/-! DEFINITION. The meanings of the keyboard and timer instructions of spec/45_keys_timers.md: EX9E, EXA1, FX07,
FX0A, FX15, FX18. -/

namespace Sys2Proof.Machine

/-- EX9E, SKP Vx (R180). -/
def execSkp (x : Reg) (s : State) : Result := .next (skipIf (held (readV x s) s) s)

/-- EXA1, SKNP Vx (R181). -/
def execSknp (x : Reg) (s : State) : Result := .next (skipIf (!held (readV x s) s) s)

/-- FX0A, LD Vx, K: the wait begins and the pc stays at A (R184); `deliver_key` ends it (R216). -/
def execLdVxK (x : Reg) (s : State) : Result := .next (setMode (.awaitingKey x) s)

/-- FX07, LD Vx, DT (R183). -/
def execLdVxDt (x : Reg) (s : State) : Result := .next (advance (writeV x s.dt s))

/-- FX15, LD DT, Vx; `last_tick` is not reset (R185). -/
def execLdDtVx (x : Reg) (s : State) : Result := .next (advance (setDt (readV x s) s))

/-- FX18, LD ST, Vx; `last_tick` is not reset (R186). -/
def execLdStVx (x : Reg) (s : State) : Result := .next (advance (setSt (readV x s) s))

end Sys2Proof.Machine
end

