-- ==== Sys2Proof/Machine/LoadStore.lean ====
section
/-! DEFINITION. The meanings of the address register and the load/store unit of spec/43_load_store.md: ANNN, FX1E,
FX29, FX33, FX55, FX65. No access changes I (R156). -/

namespace Sys2Proof.Machine

/-- ANNN, LD I, nnn (R150). -/
def execLdI (nnn : Addr12) (s : State) : Result := .next (advance (setI (widenAddr nnn) s))

/-- FX1E, ADD I, Vx: modulo 65536, no flag (R151). -/
def execAddIVx (x : Reg) (s : State) : Result := .next (advance (setI (s.i + widenByte (readV x s)) s))

/-- FX29, LD F, Vx: 5 times Vx, not masked (R152). -/
def execLdFVx (x : Reg) (s : State) : Result := .next (advance (setI (widenByte (readV x s) * 5) s))

/-- Store bytes from I upwards and advance, or raise WriteOutOfRange with nothing written (R153, R154, R203). -/
def storeAtI (bs : List Byte) (s : State) : Result :=
  match writeBytes s.mem (effectiveAddr s 0) bs with
  | .error a => .next (raise .writeOutOfRange a s)
  | .ok m => .next (advance (setMem m s))

/-- FX33, LD B, Vx: the decimal digits of Vx at I, I + 1, I + 2 (R153). -/
def execLdBVx (x : Reg) (s : State) : Result := storeAtI (decimalDigits (readV x s)) s

/-- FX55, LD [I], Vx: V0 to Vx at I (R154). -/
def execStoreRegs (x : Reg) (s : State) : Result := storeAtI (regsUpTo x s) s

/-- FX65, LD Vx, [I]: V0 to Vx from I, or ReadOutOfRange with no register written (R155). -/
def execLoadRegs (x : Reg) (s : State) : Result :=
  match readBytes s.mem (effectiveAddr s 0) (x.val + 1) with
  | .error a => .next (raise .readOutOfRange a s)
  | .ok bs => .next (advance (setRegs (fillRegs s.v 0 bs) s))

end Sys2Proof.Machine
end

