-- ==== Sys2Proof/Machine/HostPort.lean ====
section
/-! DEFINITION. The host interface of spec/60_exceptions.md: the events of phase 1 (R216 to R218, R220), the timer
update of phase 3 (R210, R211), the load ports (R58, R59, R223) and the outputs (R214, R219, R221, R228). -/

namespace Sys2Proof.Machine

/-- The mask bit of a key (R31). -/
def keyBit (k : Key) : BitVec 16 := 1#16 <<< k.val

/-- `key_down(k)` (R217). -/
def keyDown (k : Key) (s : State) : State := setKeys (s.keys ||| keyBit k) s

/-- `key_up(k)` (R218). -/
def keyUp (k : Key) (s : State) : State := setKeys (s.keys &&& ~~~keyBit k) s

/-- `deliver_key(k)`: ends a key wait, else no effect; `keys` does not change (R216). -/
def deliverKey (k : Key) (s : State) : State :=
  match s.mode with
  | .awaitingKey t => setPc (s.pc + 2) (setMode .running (writeV t (BitVec.ofNat 8 k.val) s))
  | .running | .faulted => s

/-- `ack_display` (R220). -/
def ackDisplay (s : State) : State := setDirty false s

/-- One host event (phase 1 of R100); while Faulted it has no effect (R204). -/
def applyEvent (e : HostEvent) (s : State) : State :=
  match s.mode with
  | .faulted => s
  | .running | .awaitingKey _ =>
    match e with
    | .keyDown k => keyDown k s
    | .keyUp k => keyUp k s
    | .deliverKey k => deliverKey k s
    | .ackDisplay => ackDisplay s

/-- The events of a cycle in the order the host delivered them (R100, R206). -/
def applyEvents : List HostEvent → State → State
  | [], s => s
  | e :: es, s => applyEvents es (applyEvent e s)

/-- One timer's step: down by one, floored at 0 (R211). -/
def countDown (b : Byte) : Byte := if b = 0 then 0 else b - 1

/-- At least 1/60 s has passed since the last decrement, exactly, in nanoseconds (R211, D22). -/
def tickDue (now lastTick : Nat) : Bool := Config.second ≤ Config.timerRate * (now - lastTick)

/-- `TimerUpdate(now)` (R211): both timers share one timestamp (R210), which becomes `now` when they tick. -/
def timerUpdate (now : Nat) (s : State) : State :=
  let due := tickDue now s.lastTick
  { s with
    dt := if due then countDown s.dt else s.dt
    st := if due then countDown s.st else s.st
    lastTick := if due then now else s.lastTick }

/-- Write a boot image at an address (R58, R59): the same plain byte writes as a store. -/
def loadImage (base : Nat) (bytes : List Byte) (s : State) : State :=
  match writeBytes s.mem base bytes with
  | .ok m => setMem m s
  | .error _ => s

/-- The font load of a table of 80 bytes (R8, R58). -/
def loadFontTable (table : List Byte) (s : State) : State := loadImage Config.fontBase table s

/-- The program load (R59): nothing is written for an image longer than MAX_PROGRAM. -/
def loadProgramBytes (image : List Byte) (s : State) : Option State :=
  if image.length ≤ Config.maxProgram then some (loadImage Config.programBase image s) else none

/-- The host move `loadFont`: once, between reset and the first cycle (R223, R225, R242; log 7). -/
def loadFontMove (s : State) : Result :=
  if s.host.started || s.host.fontLoaded then .refused .loadOutsideBoot
  else .next (setHost { s.host with fontLoaded := true } (loadFontTable Config.font s))

/-- The host move `loadProgram`: once, between reset and the first cycle; an image that is too long is rejected,
memory unchanged, and the host told so (R59, R223, R225, R242; log 7).
DESIGN CHOICE (log 18): a rejected load uses up the one load, so a retry is refused until the next reset. The spec says
only "load once each after reset". -/
def loadProgramMove (image : List Byte) (s : State) : Result :=
  if s.host.started || s.host.image != .notLoaded then .refused .loadOutsideBoot
  else match loadProgramBytes image s with
    | some t => .next (setHost { s.host with image := .loaded } t)
    | none => .next (setHost { s.host with image := .rejected } s)

/-! ### Outputs: what the host may read between cycles. Reading changes no state. -/

/-- The display and the dirty flag (R219). -/
def displayOut (s : State) : Display × Bool := (s.display, s.dirty)

/-- `sound_on` (R214). -/
def soundOn (s : State) : Bool := s.st != 0 && s.mode != .faulted

/-- The audio output: `sound_on` and ST's value (R221). -/
def soundOut (s : State) : Bool × Byte := (soundOn s, s.st)

/-- The status output: the mode and the fault record (R228). -/
def statusOut (s : State) : Mode × FaultRecord := (s.mode, s.fault)

/-- The source's wait-for-key flag (R34): 1 exactly while a key is awaited. -/
def waitingForKey (s : State) : Bool :=
  match s.mode with
  | .awaitingKey _ => true
  | .running | .faulted => false

end Sys2Proof.Machine
end

