-- ==== Sys2Proof/Machine/Cycle.lean ====
section
/-! DEFINITION. The cycle of spec/40_cycle.md: fetch (spec/30_encoding.md R85), execute (R101), the four phases
(R100), and the host's moves at a cycle boundary (spec/60_exceptions.md R225, spec/70_reset_and_hazards.md R240,
R242). -/

namespace Sys2Proof.Machine

/-- The fetch (R85): the big-endian word at A = pc, or the lowest address out of range. -/
def fetch (s : State) : Except Nat Word :=
  if outOfRange s.pc.toNat then .error s.pc.toNat
  else if outOfRange (s.pc.toNat + 1) then .error (s.pc.toNat + 1)
  else .ok (wordOfBytes (readByte s.mem s.pc.toNat) (readByte s.mem (s.pc.toNat + 1)))

/-- Apply the rule of the row the word decodes to; a word without a row is a NOP (R88, R101, R103). -/
def executeWord (w : Word) (s : State) : Result :=
  match decodeWord w with
  | some i => exec i s
  | none => execNoRow w s

/-- `Execute()` (R101): fetch, decode, apply. A fetch fault comes before decoding (R205). -/
def execute (s : State) : Result :=
  match fetch s with
  | .error a => .next (raise .fetchOutOfRange a s)
  | .ok w => executeWord w s

/-- Phase 3: the timer update, unless Faulted (R100, R206). -/
def phase3 (now : Nat) (s : State) : State :=
  match s.mode with
  | .faulted => s
  | .running | .awaitingKey _ => timerUpdate now s

/-- Phases 2 and 3: execute one instruction if Running, then update the timers (R100, R104, R105). -/
def phases23 (now : Nat) (s : State) : Result :=
  match s.mode with
  | .running =>
    match execute s with
    | .next t => .next (phase3 now t)
    | .fault r => .fault r
    | .refused r => .refused r
  | .awaitingKey _ | .faulted => .next (phase3 now s)

/-- `Cycle(events, now)` (R100): nothing changes while Faulted (R204). Phase 4, presenting the display, is the
host's and changes no state of CORE. -/
def coreCycle (events : List HostEvent) (now : Nat) (s : State) : Result :=
  match s.mode with
  | .faulted => .next s
  | .running | .awaitingKey _ => phases23 now (applyEvents events s)

/-- The host's side when it calls a cycle: time has passed and loading is over (R67, R212). -/
def cycleCalled (elapsed : Nat) (h : HostSide) : HostSide :=
  { h with clock := h.clock + elapsed, started := true }

/-- The host move `cycle`: refused on an image whose load was rejected (R59, R242; log 7). -/
def cycleMove (events : List HostEvent) (elapsed : Nat) (s : State) : Result :=
  match s.host.image with
  | .rejected => .refused .runOnRejectedImage
  | .notLoaded | .loaded =>
    coreCycle events (s.host.clock + elapsed) (setHost (cycleCalled elapsed s.host) s)

/-- One move of the host (R225). A cycle's `now` is never below the last one (R212; log 5); a reset's may be, and the
cycles after it count on from it: DESIGN CHOICE, since the spec binds `now` in its cycle row only (log 19). -/
def runMove (mv : HostMove) (s : State) : Result :=
  match mv with
  | .cycle events elapsed => cycleMove events elapsed s
  | .reset now => .next (resetAt now s.host)
  | .loadFont => loadFontMove s
  | .loadProgram image => loadProgramMove image s

/-- The move the host makes next: the head of its schedule; beyond it, a cycle with no events after a free time
(log 2). -/
def nextMove (h : HostSide) : HostMove :=
  match h.schedule with
  | mv :: _ => mv
  | [] => .cycle [] (Config.idleElapsed h.idle)

/-- The host's side once that move is taken. -/
def afterMove (h : HostSide) : HostSide :=
  match h.schedule with
  | _ :: rest => { h with schedule := rest }
  | [] => { h with idle := h.idle + 1 }

/-- The machine takes the host's next move. -/
def takeMove (s : State) : Result := runMove (nextMove s.host) (setHost (afterMove s.host) s)

/-- Where a word is placed so that the next cycle fetches it: at pc, or at the reset vector when no word can be
fetched at pc (R85, R241). -/
def placeAddr (s : State) : Word := if outOfRange (s.pc.toNat + 1) then 0x200 else s.pc

/-- The host's side with a plain cycle (no events, no time) as its next move, on an image that may run. -/
def readyHost (h : HostSide) : HostSide :=
  { h with
    schedule := .cycle [] 0 :: h.schedule
    image := match h.image with
      | .rejected => .notLoaded
      | .notLoaded => .notLoaded
      | .loaded => .loaded }

/-- The state whose very next step fetches and runs the word `w` (log 15). -/
def placeWord (w : Word) (s : State) : State :=
  let a := placeAddr s
  let m := writeByte (writeByte s.mem a.toNat (w.extractLsb' 8 8)) (a.toNat + 1) (w.extractLsb' 0 8)
  setHost (readyHost s.host) (setMode .running (setPc a (setMem m s)))

end Sys2Proof.Machine
end

