-- ==== Sys2Proof/Machine/Step.lean ====
section
/-! DEFINITION. One step: the host's next move, which is a cycle (spec/40_cycle.md R100) unless the host's schedule
says otherwise. And the placing of an instruction where the next step fetches it. -/

namespace Sys2Proof.Machine

/-- One step of the machine. -/
def step (s : State) : Host.Outcome State Fault Refusal := takeMove s

/-- The state with the instruction whose bits are `w` (numbered as the opcode table numbers them) stored where the
next step fetches, and with what that step needs to run it (log 15). -/
def State.withFetchWord (s : State) (nbits w : Nat) : State := placeWord (tableWord nbits w) s

end Sys2Proof.Machine
end

