-- ==== Sys2Proof/Safety.lean ====
section
/-! DEFINITION. What counts as a safe run, the machine's invariant, and the vocabulary the statements use: frames,
raised faults, what a sprite covers. -/

namespace Sys2Proof.Safety

open Sys2Proof.Machine

/-- A state is safe when CORE has not halted on a fault (spec/60_exceptions.md R200, R204). -/
def Safe (s : State) : Prop := s.mode ≠ .faulted

/-- What every reachable state satisfies; see each field for the rule of spec/ it comes from. -/
structure Invariant (s : State) : Prop where
  /-- Memory is in its canonical form and inside the address space (R50). -/
  memory : s.mem.wf
  /-- The largest value a rule writes to pc is 0x10FE (R27). -/
  pcBound : s.pc.toNat ≤ 0x10FE
  /-- A return address is at most 0x1000 (R112). -/
  stackBound : ∀ k : Fin 24, s.stack[k.val].toNat ≤ 0x1000
  /-- During a key wait pc is the address of the FX0A, which was fetched (R184, R216, R85). -/
  waitBound : ∀ t, s.mode = .awaitingKey t → s.pc.toNat ≤ 0xFFE
  /-- Faulted exactly when a cause is recorded (R35, R202). -/
  faultedIff : s.mode = .faulted ↔ s.fault.cause ≠ .none
  /-- pc keeps the value the record saves (R202). -/
  faultPc : s.mode = .faulted → s.fault.pc = s.pc
  /-- With no fault the record is as reset leaves it (R35, R42). -/
  noFault : s.mode ≠ .faulted → s.fault.pc = 0 ∧ s.fault.addr = 0
  /-- A stack fault records address 0 (R201). -/
  stackFault : s.fault.cause = .stackOverflow ∨ s.fault.cause = .stackUnderflow → s.fault.addr = 0
  /-- A memory fault records an address outside the address space (R201). -/
  memoryFault : s.fault.cause = .fetchOutOfRange ∨ s.fault.cause = .readOutOfRange ∨
    s.fault.cause = .writeOutOfRange → 0xFFF < s.fault.addr.toNat
  /-- The timestamp is a past `now` (R36, R212). -/
  clockOrder : s.lastTick ≤ s.host.clock

/-- What an instruction may change; what is not named is unchanged. -/
structure Changes where
  /-- the registers written -/
  regs    : Reg → Prop := fun _ => False
  /-- the memory bytes stored to -/
  bytes   : Nat → Prop := fun _ => False
  index   : Prop := False
  stack   : Prop := False
  dt      : Prop := False
  st      : Prop := False
  display : Prop := False
  mode    : Prop := False
  fault   : Prop := False
  host    : Prop := False

/-- `t` agrees with `s` outside the named changes; pc is left to the statement. -/
structure Frame (c : Changes) (s t : State) : Prop where
  regs     : ∀ k, ¬ c.regs k → readV k t = readV k s
  bytes    : ∀ a, ¬ c.bytes a → readByte t.mem a = readByte s.mem a
  index    : ¬ c.index → t.i = s.i
  stack    : ¬ c.stack → t.stack = s.stack ∧ t.sp = s.sp
  dt       : ¬ c.dt → t.dt = s.dt
  st       : ¬ c.st → t.st = s.st
  display  : ¬ c.display → t.display = s.display ∧ t.dirty = s.dirty
  mode     : ¬ c.mode → t.mode = s.mode
  fault    : ¬ c.fault → t.fault = s.fault
  host     : ¬ c.host → t.host = s.host
  lastTick : t.lastTick = s.lastTick
  keys     : t.keys = s.keys

/-- `t` is `s` after `raise`: Faulted, with this cause and address and the old pc recorded, pc unmoved, everything
else unchanged (R202, R203). -/
structure Raised (c : FaultCause) (addr : Nat) (s t : State) : Prop where
  mode  : t.mode = .faulted
  cause : t.fault.cause = c
  savedPc : t.fault.pc = s.pc
  addr  : t.fault.addr.toNat = addr
  pc    : t.pc = s.pc
  frame : Frame { mode := True, fault := True } s t

/-- `a` is the lowest address above 0xFFF among the `n` bytes from `base` (R205). -/
def LowestOutOfRange (base n a : Nat) : Prop :=
  (∃ k, k < n ∧ a = base + k) ∧ 0xFFF < a ∧ ∀ k, k < n → 0xFFF < base + k → a ≤ base + k

/-- The pixel of the display at row `r` and column `c`. -/
def pixel (s : State) (r : Fin 32) (c : Fin 64) : Bool := s.display[r.val][c.val]

/-- The sprite of `n` rows at I, drawn at column `x0` and row `y0`, toggles the pixel at row `r`, column `c`
(R171 to R173): the pixel is in the sprite's box and its bit is 1. -/
def SpriteToggles (s : State) (x0 y0 n : Nat) (r : Fin 32) (c : Fin 64) : Prop :=
  y0 ≤ r.val ∧ r.val < y0 + n ∧ x0 ≤ c.val ∧ c.val < x0 + 8 ∧
    (readByte s.mem (s.i.toNat + (r.val - y0))).getLsbD (7 - (c.val - x0)) = true

/-- The word the fetch reads at pc when both its bytes exist (R55, R85). -/
def wordAtPc (s : State) : Word := wordOfBytes (readByte s.mem s.pc.toNat) (readByte s.mem (s.pc.toNat + 1))

/-- The state at the start of phase 1 of the scheduled cycle: only the host's side has moved on. -/
def cycleStart (s : State) (rest : List HostMove) (elapsed : Nat) : State :=
  setHost { s.host with schedule := rest, clock := s.host.clock + elapsed, started := true } s

end Sys2Proof.Safety
end

