-- ==== Sys2Proof/Certificates/Slice0/Obligations.lean ====
section
/-! DEFINITION. The statements for the provers. Each docstring names the rule of spec/ it formalises; "log n" is
notes/assumptions/n.md, "D n" a decision of spec/92_eei_decisions.md. `A` of the rules is `s.pc`. -/

open Sys2Proof Sys2Proof.Machine Sys2Proof.Safety

/-! ### Encoding and decoding -/

/-- Decoding the word of a well-formed instruction gives it back, for all 35 instructions and every operand (R87,
R88; D5, D6). The one check, on SYS, is that 00E0 and 00EE are CLS and RET. -/
def Obligations.DecodeOfEncodeIsTheInstruction : Prop :=
  ∀ i : Instr, i.wf = true → decodeWord (encode i) = some i

/-- A word that decodes is the word of the instruction it decodes to, which is well formed: no bit is dropped
(R87, R88). -/
def Obligations.EncodeOfDecodeIsTheWord : Prop :=
  ∀ (w : Word) (i : Instr), decodeWord w = some i → encode i = w ∧ i.wf = true

/-- A few words written out from the opcode map, one of each format (R86, R87), as they stand in memory, high byte
first (R55). -/
def Obligations.KnownWordsDecode : Prop :=
  ∀ rest : List Byte,
    decode (0x00 :: 0xE0 :: rest) = .ok (.cls, rest) ∧
    decode (0x00 :: 0xEE :: rest) = .ok (.ret, rest) ∧
    decode (0x01 :: 0x23 :: rest) = .ok (.sys 0x123, rest) ∧
    decode (0xB3 :: 0x00 :: rest) = .ok (.jpV0 0x300, rest) ∧
    decode (0x33 :: 0x42 :: rest) = .ok (.seImm 3 0x42, rest) ∧
    decode (0x81 :: 0x25 :: rest) = .ok (.subReg 1 2, rest) ∧
    decode (0xD0 :: 0x15 :: rest) = .ok (.drw 0 1 5, rest) ∧
    decode (0xE2 :: 0xA1 :: rest) = .ok (.sknp 2, rest) ∧
    decode (0xF3 :: 0x0A :: rest) = .ok (.ldVxK 3, rest) ∧
    decode (0xF2 :: 0x65 :: rest) = .ok (.loadRegs 2, rest)

/-- The words without a row are exactly those of R89 (b) to (f); family 0 without CLS and RET is SYS, R89 (a)
(D3, D4, D6). -/
def Obligations.UnmatchedWordsAreTheNoOpSpace : Prop :=
  (∀ w : Word, decodeWord w = none ↔
    ((opOf w = 5 ∨ opOf w = 9) ∧ nOf w ≠ 0) ∨
    (opOf w = 8 ∧ nOf w ∈ [8, 9, 10, 11, 12, 13, 15]) ∨
    (opOf w = 14 ∧ nnOf w ∉ [0x9E, 0xA1]) ∨
    (opOf w = 15 ∧ nnOf w ∉ [0x07, 0x0A, 0x15, 0x18, 0x1E, 0x29, 0x33, 0x55, 0x65])) ∧
  ∀ w : Word, opOf w = 0 → w ≠ 0x00E0 → w ≠ 0x00EE → decodeWord w = some (.sys (nnnOf w))

/-- Two rows of the opcode map fit a common word only where CLS or RET precedes SYS (R88). -/
def Obligations.RowsOverlapOnlyAtSys : Prop :=
  ∀ (w : Word) (j k : Fin 35) (r q : Row), rows[j.val]? = some r → rows[k.val]? = some q → j < k →
    r.fits w = true → q.fits w = true → k.val = 2 ∧ (w = 0x00E0 ∨ w = 0x00EE)

/-! ### NOP and control transfer -/

/-- A pc of 0xFFF or above makes the next fetch raise FetchOutOfRange (R85): with address 0x1000 from 0xFFF, else
with the pc itself. -/
def NextFetchFaults (t : State) : Prop :=
  0xFFF ≤ t.pc.toNat → ∃ u, execute t = .next u ∧ Raised .fetchOutOfRange (max 0x1000 t.pc.toNat) t u

/-- R103: SYS, and every word without a row, changes nothing but pc, which advances by 2 (D3, D4, D5). -/
def Obligations.NopOnlyAdvances : Prop :=
  (∀ (nnn : Addr12) (s : State), (encode (.sys nnn)).toNat = nnn.toNat ∧
    ∃ t, exec (.sys nnn) s = .next t ∧ t.pc = s.pc + 2 ∧ Frame {} s t ∧ NextFetchFaults t) ∧
  ∀ (w : Word) (s : State), decodeWord w = none →
    ∃ t, executeWord w s = .next t ∧ t.pc = s.pc + 2 ∧ Frame {} s t ∧ NextFetchFaults t

/-- R110: RET pops the top entry into pc, as it is, and does not clear it; on an empty stack it raises
StackUnderflow with nothing changed (D1, D16). -/
def Obligations.ReturnPopsOrUnderflows : Prop :=
  (encode .ret).toNat = 0x00EE ∧
  (∀ (s : State) (n : Nat) (h : n < 24), s.sp.val = n + 1 →
    ∃ t, exec .ret s = .next t ∧ t.sp.val = n ∧ t.pc = s.stack[n] ∧ t.stack = s.stack ∧
      Frame { stack := True } s t ∧ NextFetchFaults t) ∧
  ∀ s : State, s.sp.val = 0 → ∃ t, exec .ret s = .next t ∧ Raised .stackUnderflow 0 s t

/-- R112: CALL pushes A + 2, at most 0x1000 after a fetch, and jumps; with 24 entries in use it raises
StackOverflow with nothing changed (D1, D16). -/
def Obligations.CallPushesOrOverflows : Prop :=
  (∀ nnn : Addr12, (encode (.call nnn)).toNat = (0x2000 ||| nnn.toNat)) ∧
  (∀ (nnn : Addr12) (s : State) (h : s.sp.val < 24),
    ∃ t, exec (.call nnn) s = .next t ∧ t.sp.val = s.sp.val + 1 ∧ t.stack[s.sp.val] = s.pc + 2 ∧
      (s.pc.toNat ≤ 0xFFE → t.stack[s.sp.val].toNat ≤ 0x1000) ∧
      (∀ k : Fin 24, k.val ≠ s.sp.val → t.stack[k.val] = s.stack[k.val]) ∧ t.pc.toNat = nnn.toNat ∧
      Frame { stack := True } s t) ∧
  ∀ (nnn : Addr12) (s : State), s.sp.val = 24 →
    ∃ t, exec (.call nnn) s = .next t ∧ Raised .stackOverflow 0 s t

/-- Calls nested one inside the other, each then returned from: call, the inner ones, return. -/
def nestedCalls : List Addr12 → State → Option State
  | [], s => some s
  | a :: inner, s =>
    match exec (.call a) s with
    | .next t =>
      match nestedCalls inner t with
      | some u =>
        match exec .ret u with
        | .next w => some w
        | .fault _ | .refused _ => none
      | none => none
    | .fault _ | .refused _ => none

/-- Nested calls and as many returns, from depth 1 to the capacity, continue after the outermost CALL with SP and the
entries in use as they were (derived from R110, R112; vector S5 of spec/95_test_vectors.md). -/
def Obligations.NestedCallsReturnBehindTheCall : Prop :=
  ∀ (calls : List Addr12) (s : State), calls ≠ [] → s.sp.val + calls.length ≤ 24 →
    ∃ t, nestedCalls calls s = some t ∧ t.pc = s.pc + 2 ∧ t.sp = s.sp ∧
      (∀ k : Fin 24, k.val < s.sp.val → t.stack[k.val] = s.stack[k.val]) ∧ Frame { stack := True } s t

/-- R111: JP sets pc to nnn and changes nothing else; a target of 0xFFF makes the next fetch fault. -/
def Obligations.JumpSetsThePc : Prop :=
  ∀ (nnn : Addr12) (s : State), (encode (.jp nnn)).toNat = (0x1000 ||| nnn.toNat) ∧
    ∃ t, exec (.jp nnn) s = .next t ∧ t.pc.toNat = nnn.toNat ∧ Frame {} s t ∧
      NextFetchFaults t

/-- R113, R114: SE Vx, nn and SNE Vx, nn go to A + 4 when the skip is taken and to A + 2 when not (D2). -/
def Obligations.SkipsOnImmediate : Prop :=
  ∀ (x : Reg) (nn : Byte) (s : State),
    (encode (.seImm x nn)).toNat = (0x3000 ||| x.val <<< 8 ||| nn.toNat) ∧
    (encode (.sneImm x nn)).toNat = (0x4000 ||| x.val <<< 8 ||| nn.toNat) ∧
    (∃ t, exec (.seImm x nn) s = .next t ∧ Frame {} s t ∧ NextFetchFaults t ∧
      (readV x s = nn → t.pc = s.pc + 4) ∧ (readV x s ≠ nn → t.pc = s.pc + 2)) ∧
    ∃ t, exec (.sneImm x nn) s = .next t ∧ Frame {} s t ∧ NextFetchFaults t ∧
      (readV x s ≠ nn → t.pc = s.pc + 4) ∧ (readV x s = nn → t.pc = s.pc + 2)

/-- R115, R116: SE Vx, Vy and SNE Vx, Vy likewise (D2, D6); with x = y the first always skips and the second
never. -/
def Obligations.SkipsOnRegisters : Prop :=
  ∀ (x y : Reg) (s : State),
    (encode (.seReg x y)).toNat = (0x5000 ||| x.val <<< 8 ||| y.val <<< 4) ∧
    (encode (.sneReg x y)).toNat = (0x9000 ||| x.val <<< 8 ||| y.val <<< 4) ∧
    (∃ t, exec (.seReg x y) s = .next t ∧ Frame {} s t ∧ NextFetchFaults t ∧
      (readV x s = readV y s → t.pc = s.pc + 4) ∧ (readV x s ≠ readV y s → t.pc = s.pc + 2)) ∧
    ∃ t, exec (.sneReg x y) s = .next t ∧ Frame {} s t ∧ NextFetchFaults t ∧
      (readV x s ≠ readV y s → t.pc = s.pc + 4) ∧ (readV x s = readV y s → t.pc = s.pc + 2)

/-- R117: JP V0, nnn sets pc to nnn + V0, not reduced; it raises nothing itself, and a target of 0xFFF or above makes
the next fetch raise FetchOutOfRange with the target recorded (D13, D14). -/
def Obligations.ComputedJumpAddsV0 : Prop :=
  ∀ (nnn : Addr12) (s : State), (encode (.jpV0 nnn)).toNat = (0xB000 ||| nnn.toNat) ∧
    ∃ t, exec (.jpV0 nnn) s = .next t ∧ t.pc.toNat = nnn.toNat + (readV 0 s).toNat ∧ Frame {} s t ∧
      NextFetchFaults t

/-! ### Register loads and the ALU -/

/-- R130, R131, R132: LD Vx, nn; ADD Vx, nn, which wraps and writes no flag; LD Vx, Vy. Every other register, VF
among them, is unchanged. -/
def Obligations.RegisterLoadsWriteOnlyVx : Prop :=
  ∀ (x y : Reg) (nn : Byte) (s : State),
    (encode (.ldImm x nn)).toNat = (0x6000 ||| x.val <<< 8 ||| nn.toNat) ∧
    (encode (.addImm x nn)).toNat = (0x7000 ||| x.val <<< 8 ||| nn.toNat) ∧
    (encode (.ldReg x y)).toNat = (0x8000 ||| x.val <<< 8 ||| y.val <<< 4) ∧
    (∃ t, exec (.ldImm x nn) s = .next t ∧ readV x t = nn ∧ t.pc = s.pc + 2 ∧
      Frame { regs := fun k => k = x } s t) ∧
    (∃ t, exec (.addImm x nn) s = .next t ∧ (readV x t).toNat = ((readV x s).toNat + nn.toNat) % 256 ∧
      t.pc = s.pc + 2 ∧ Frame { regs := fun k => k = x } s t) ∧
    ∃ t, exec (.ldReg x y) s = .next t ∧ readV x t = readV y s ∧ t.pc = s.pc + 2 ∧
      Frame { regs := fun k => k = x } s t

/-- R133, R134, R135: OR, AND and XOR, bit by bit; VF is not reset (D9). -/
def Obligations.BitwiseLogicKeepsVf : Prop :=
  ∀ (x y : Reg) (s : State),
    (encode (.orReg x y)).toNat = (0x8000 ||| x.val <<< 8 ||| y.val <<< 4 ||| 0x1) ∧
    (encode (.andReg x y)).toNat = (0x8000 ||| x.val <<< 8 ||| y.val <<< 4 ||| 0x2) ∧
    (encode (.xorReg x y)).toNat = (0x8000 ||| x.val <<< 8 ||| y.val <<< 4 ||| 0x3) ∧
    (∃ t, exec (.orReg x y) s = .next t ∧ t.pc = s.pc + 2 ∧ Frame { regs := fun k => k = x } s t ∧
      ∀ b : Fin 8, (readV x t).getLsbD b = ((readV x s).getLsbD b || (readV y s).getLsbD b)) ∧
    (∃ t, exec (.andReg x y) s = .next t ∧ t.pc = s.pc + 2 ∧ Frame { regs := fun k => k = x } s t ∧
      ∀ b : Fin 8, (readV x t).getLsbD b = ((readV x s).getLsbD b && (readV y s).getLsbD b)) ∧
    ∃ t, exec (.xorReg x y) s = .next t ∧ t.pc = s.pc + 2 ∧ Frame { regs := fun k => k = x } s t ∧
      ∀ b : Fin 8, (readV x t).getLsbD b = ((readV x s).getLsbD b != (readV y s).getLsbD b)

/-- R136: ADD Vx, Vy. The flag is written after the result, so with x = F VF is the carry (D7). -/
def Obligations.AddSetsCarry : Prop :=
  ∀ (x y : Reg) (s : State),
    (encode (.addReg x y)).toNat = (0x8000 ||| x.val <<< 8 ||| y.val <<< 4 ||| 0x4) ∧
    ∃ t, exec (.addReg x y) s = .next t ∧ t.pc = s.pc + 2 ∧
      (x ≠ 15 → (readV x t).toNat = ((readV x s).toNat + (readV y s).toNat) % 256) ∧
      (readV 15 t).toNat = (if (readV x s).toNat + (readV y s).toNat > 255 then 1 else 0) ∧
      Frame { regs := fun k => k = x ∨ k = 15 } s t

/-- R137, R139: SUB and SUBN wrap, and VF is 1 only when the minuend is strictly greater, so 0 at equality; with
x = F VF is the flag (D7, C2). -/
def Obligations.SubtractSetsStrictFlag : Prop :=
  ∀ (x y : Reg) (s : State),
    (encode (.subReg x y)).toNat = (0x8000 ||| x.val <<< 8 ||| y.val <<< 4 ||| 0x5) ∧
    (encode (.subnReg x y)).toNat = (0x8000 ||| x.val <<< 8 ||| y.val <<< 4 ||| 0x7) ∧
    (∃ t, exec (.subReg x y) s = .next t ∧ t.pc = s.pc + 2 ∧
      (x ≠ 15 → ((readV x t).toNat : Int) = ((readV x s).toNat - (readV y s).toNat : Int) % 256) ∧
      (readV 15 t).toNat = (if (readV x s).toNat > (readV y s).toNat then 1 else 0) ∧
      Frame { regs := fun k => k = x ∨ k = 15 } s t) ∧
    ∃ t, exec (.subnReg x y) s = .next t ∧ t.pc = s.pc + 2 ∧
      (x ≠ 15 → ((readV x t).toNat : Int) = ((readV y s).toNat - (readV x s).toNat : Int) % 256) ∧
      (readV 15 t).toNat = (if (readV y s).toNat > (readV x s).toNat then 1 else 0) ∧
      Frame { regs := fun k => k = x ∨ k = 15 } s t

/-- R138, R140: SHR and SHL shift Vx by one, y ignored. The result is written after the flag, so with x = F VF is
the shifted value (D7, D8). -/
def Obligations.ShiftsMoveOneBitOut : Prop :=
  ∀ (x y : Reg) (s : State),
    (encode (.shr x y)).toNat = (0x8000 ||| x.val <<< 8 ||| y.val <<< 4 ||| 0x6) ∧
    (encode (.shl x y)).toNat = (0x8000 ||| x.val <<< 8 ||| y.val <<< 4 ||| 0xE) ∧
    (∃ t, exec (.shr x y) s = .next t ∧ t.pc = s.pc + 2 ∧
      (readV x t).toNat = (readV x s).toNat / 2 ∧
      (x ≠ 15 → (readV 15 t).toNat = (readV x s).toNat % 2) ∧
      Frame { regs := fun k => k = x ∨ k = 15 } s t) ∧
    ∃ t, exec (.shl x y) s = .next t ∧ t.pc = s.pc + 2 ∧
      (readV x t).toNat = (readV x s).toNat * 2 % 256 ∧
      (x ≠ 15 → (readV 15 t).toNat = (readV x s).toNat / 128) ∧
      Frame { regs := fun k => k = x ∨ k = 15 } s t

/-- RND takes exactly one byte r from the source and puts r AND nn in Vx. It follows R141 and R222; where the byte
comes from is the model's choice (log 4): the bytes the host's side lists, and beyond them a free value. -/
def Obligations.RandomByteIsMasked : Prop :=
  ∀ (x : Reg) (nn : Byte) (s : State),
    (encode (.rnd x nn)).toNat = (0xC000 ||| x.val <<< 8 ||| nn.toNat) ∧
    ∃ t r, exec (.rnd x nn) s = .next t ∧ t.pc = s.pc + 2 ∧
      (∀ b : Fin 8, (readV x t).getLsbD b = (r.getLsbD b && nn.getLsbD b)) ∧
      Frame { regs := fun k => k = x, host := True } s t ∧
      (∀ b bs, s.host.randomBytes = b :: bs → r = b ∧ t.host = { s.host with randomBytes := bs }) ∧
      (s.host.randomBytes = [] →
        r = Config.randomByte s.host.draws ∧ t.host = { s.host with draws := s.host.draws + 1 })

/-! ### The address register, loads and stores -/

/-- R150, R151, R152: LD I, nnn; ADD I, Vx, modulo 65536 with no flag; LD F, Vx, five times Vx with no mask
(D11, D12). -/
def Obligations.AddressRegisterIsSet : Prop :=
  (∀ (nnn : Addr12) (s : State), (encode (.ldI nnn)).toNat = (0xA000 ||| nnn.toNat) ∧
    ∃ t, exec (.ldI nnn) s = .next t ∧ t.i.toNat = nnn.toNat ∧ t.pc = s.pc + 2 ∧
      Frame { index := True } s t) ∧
  ∀ (x : Reg) (s : State),
    (encode (.addIVx x)).toNat = (0xF01E ||| x.val <<< 8) ∧
    (encode (.ldFVx x)).toNat = (0xF029 ||| x.val <<< 8) ∧
    (∃ t, exec (.addIVx x) s = .next t ∧ t.i.toNat = (s.i.toNat + (readV x s).toNat) % 65536 ∧
      t.pc = s.pc + 2 ∧ Frame { index := True } s t) ∧
    ∃ t, exec (.ldFVx x) s = .next t ∧ t.i.toNat = (readV x s).toNat * 5 ∧ t.pc = s.pc + 2 ∧
      Frame { index := True } s t

/-- R153: LD B, Vx stores hundreds, tens and ones at I, I + 1, I + 2, or raises WriteOutOfRange with the lowest
address above 0xFFF and no byte written (D14). -/
def Obligations.DecimalDigitsAreStored : Prop :=
  ∀ (x : Reg) (s : State), (encode (.ldBVx x)).toNat = (0xF033 ||| x.val <<< 8) ∧
    (s.i.toNat + 2 ≤ 0xFFF → ∃ t, exec (.ldBVx x) s = .next t ∧ t.pc = s.pc + 2 ∧
      (readByte t.mem (s.i.toNat)).toNat = (readV x s).toNat / 100 ∧
      (readByte t.mem (s.i.toNat + 1)).toNat = (readV x s).toNat / 10 % 10 ∧
      (readByte t.mem (s.i.toNat + 2)).toNat = (readV x s).toNat % 10 ∧
      Frame { bytes := fun a => s.i.toNat ≤ a ∧ a ≤ s.i.toNat + 2 } s t) ∧
    (0xFFF < s.i.toNat + 2 → ∃ t a, exec (.ldBVx x) s = .next t ∧ LowestOutOfRange s.i.toNat 3 a ∧
      Raised .writeOutOfRange a s t)

/-- R154: LD [I], Vx stores Vk at I + k for k from 0 to x, I unchanged, or raises WriteOutOfRange with no byte
written (D10, D14). -/
def Obligations.RegistersAreStored : Prop :=
  ∀ (x : Reg) (s : State), (encode (.storeRegs x)).toNat = (0xF055 ||| x.val <<< 8) ∧
    (s.i.toNat + x.val ≤ 0xFFF → ∃ t, exec (.storeRegs x) s = .next t ∧ t.pc = s.pc + 2 ∧
      (∀ k : Reg, k ≤ x → readByte t.mem (s.i.toNat + k.val) = readV k s) ∧
      Frame { bytes := fun a => s.i.toNat ≤ a ∧ a ≤ s.i.toNat + x.val } s t) ∧
    (0xFFF < s.i.toNat + x.val → ∃ t a, exec (.storeRegs x) s = .next t ∧
      LowestOutOfRange s.i.toNat (x.val + 1) a ∧ Raised .writeOutOfRange a s t)

/-- R155: LD Vx, [I] loads Vk from I + k for k from 0 to x, I and memory unchanged, or raises ReadOutOfRange with no
register written (D10, D14). -/
def Obligations.RegistersAreLoaded : Prop :=
  ∀ (x : Reg) (s : State), (encode (.loadRegs x)).toNat = (0xF065 ||| x.val <<< 8) ∧
    (s.i.toNat + x.val ≤ 0xFFF → ∃ t, exec (.loadRegs x) s = .next t ∧ t.pc = s.pc + 2 ∧
      (∀ k : Reg, k ≤ x → readV k t = readByte s.mem (s.i.toNat + k.val)) ∧
      Frame { regs := fun k => k ≤ x } s t) ∧
    (0xFFF < s.i.toNat + x.val → ∃ t a, exec (.loadRegs x) s = .next t ∧
      LowestOutOfRange s.i.toNat (x.val + 1) a ∧ Raised .readOutOfRange a s t)

/-! ### The display -/

/-- R170: CLS clears every pixel and sets dirty, and nothing else. -/
def Obligations.ClearEmptiesTheDisplay : Prop :=
  ∀ s : State, (encode .cls).toNat = 0x00E0 ∧
    ∃ t, exec .cls s = .next t ∧ (∀ r c, pixel t r c = false) ∧ t.dirty = true ∧ t.pc = s.pc + 2 ∧
      Frame { display := True } s t

/-- DRW as one formula instead of the loop of R172: each pixel is XORed with the sprite's bit for it, pixels off the
display are discarded (R173), VF is 1 exactly when a set pixel was toggled (R174), dirty is set. The row width and
bit order are the spec's from general knowledge (R171, D17; log 9). -/
def Obligations.DrawXorsAndReportsCollision : Prop :=
  ∀ (x y : Reg) (n : Nibble) (s : State),
    (encode (.drw x y n)).toNat = (0xD000 ||| x.val <<< 8 ||| y.val <<< 4 ||| n.toNat) ∧
    ((∀ k, k < n.toNat → s.i.toNat + k ≤ 0xFFF) → ∃ t, exec (.drw x y n) s = .next t ∧ t.pc = s.pc + 2 ∧
      (∀ r c, pixel t r c = true ↔
        ¬ (pixel s r c = true ↔ SpriteToggles s (readV x s).toNat (readV y s).toNat n.toNat r c)) ∧
      ((∃ r c, pixel s r c = true ∧ SpriteToggles s (readV x s).toNat (readV y s).toNat n.toNat r c) →
        readV 15 t = 1) ∧
      ((∀ r c, pixel s r c = true → ¬ SpriteToggles s (readV x s).toNat (readV y s).toNat n.toNat r c) →
        readV 15 t = 0) ∧
      t.dirty = true ∧ Frame { regs := fun k => k = 15, display := True } s t)

/-- DRW with a row above 0xFFF, clipped or not, raises ReadOutOfRange and leaves the display, VF and dirty unchanged
(from R172; D14, D19). -/
def Obligations.DrawFaultsBeforeDrawing : Prop :=
  ∀ (x y : Reg) (n : Nibble) (s : State), 0 < n.toNat → 0xFFF < s.i.toNat + n.toNat - 1 →
    ∃ t a, exec (.drw x y n) s = .next t ∧ LowestOutOfRange s.i.toNat n.toNat a ∧
      Raised .readOutOfRange a s t

/-! ### Keys and timers -/

/-- R180, R181, R182: SKP skips when key Vx is at most 15 and held, SKNP when not (D2, D20). -/
def Obligations.SkipsOnKey : Prop :=
  ∀ (x : Reg) (s : State),
    (encode (.skp x)).toNat = (0xE09E ||| x.val <<< 8) ∧ (encode (.sknp x)).toNat = (0xE0A1 ||| x.val <<< 8) ∧
    (∃ t, exec (.skp x) s = .next t ∧ Frame {} s t ∧ NextFetchFaults t ∧
      ((∃ k : Key, (readV x s).toNat = k.val ∧ s.keys.getLsbD k.val = true) → t.pc = s.pc + 4) ∧
      ((∀ k : Key, (readV x s).toNat = k.val → s.keys.getLsbD k.val = false) → t.pc = s.pc + 2)) ∧
    ∃ t, exec (.sknp x) s = .next t ∧ Frame {} s t ∧ NextFetchFaults t ∧
      ((∃ k : Key, (readV x s).toNat = k.val ∧ s.keys.getLsbD k.val = true) → t.pc = s.pc + 2) ∧
      ((∀ k : Key, (readV x s).toNat = k.val → s.keys.getLsbD k.val = false) → t.pc = s.pc + 4)

/-- R183: LD Vx, DT. -/
def Obligations.DelayTimerIsRead : Prop :=
  ∀ (x : Reg) (s : State), (encode (.ldVxDt x)).toNat = (0xF007 ||| x.val <<< 8) ∧
    ∃ t, exec (.ldVxDt x) s = .next t ∧ readV x t = s.dt ∧ t.pc = s.pc + 2 ∧
      Frame { regs := fun k => k = x } s t

/-- R184: LD Vx, K begins a key wait with pc at A; a later `deliver_key(k)` puts k in Vx, resumes, and moves pc to
A + 2; keys held meanwhile do not end it (D21). -/
def Obligations.KeyWaitBeginsAndCompletes : Prop :=
  ∀ (x : Reg) (s : State), (encode (.ldVxK x)).toNat = (0xF00A ||| x.val <<< 8) ∧
    ∃ t, exec (.ldVxK x) s = .next t ∧ t.mode = .awaitingKey x ∧ t.pc = s.pc ∧ Frame { mode := True } s t ∧
      (∀ k : Key, (applyEvent (.keyDown k) t).mode = .awaitingKey x ∧
        (applyEvent (.keyUp k) t).mode = .awaitingKey x) ∧
      ∀ k : Key, (readV x (applyEvent (.deliverKey k) t)).toNat = k.val ∧
        (applyEvent (.deliverKey k) t).mode = .running ∧ (applyEvent (.deliverKey k) t).pc = s.pc + 2 ∧
        Frame { regs := fun j => j = x, mode := True } t (applyEvent (.deliverKey k) t)

/-- R185, R186: LD DT, Vx and LD ST, Vx; `last_tick` is not reset; a zero silences the sound at once. -/
def Obligations.TimersAreSet : Prop :=
  ∀ (x : Reg) (s : State),
    (encode (.ldDtVx x)).toNat = (0xF015 ||| x.val <<< 8) ∧ (encode (.ldStVx x)).toNat = (0xF018 ||| x.val <<< 8) ∧
    (∃ t, exec (.ldDtVx x) s = .next t ∧ t.dt = readV x s ∧ t.pc = s.pc + 2 ∧ Frame { dt := True } s t) ∧
    ∃ t, exec (.ldStVx x) s = .next t ∧ t.st = readV x s ∧ t.pc = s.pc + 2 ∧ Frame { st := True } s t ∧
      (s.mode ≠ .faulted → (soundOn t = true ↔ readV x s ≠ 0))

/-! ### Host events, the timer pair, outputs -/

/-- R217, R218, R220: key_down sets the key's bit, key_up clears it, ack_display clears dirty; nothing else changes,
and while Faulted nothing at all (D34, D26). -/
def Obligations.KeyAndAckEvents : Prop :=
  ∀ (k : Key) (s : State),
    (s.mode ≠ .faulted →
      (∀ j : Key, (applyEvent (.keyDown k) s).keys.getLsbD j.val = (s.keys.getLsbD j.val || decide (j = k))) ∧
      applyEvent (.keyDown k) s = { s with keys := (applyEvent (.keyDown k) s).keys } ∧
      (∀ j : Key, (applyEvent (.keyUp k) s).keys.getLsbD j.val = (s.keys.getLsbD j.val && decide (j ≠ k))) ∧
      applyEvent (.keyUp k) s = { s with keys := (applyEvent (.keyUp k) s).keys } ∧
      applyEvent .ackDisplay s = { s with dirty := false }) ∧
    (s.mode = .faulted → ∀ e, applyEvent e s = s)

/-- R216: deliver_key ends a key wait: the key's number into the waiting register, Running, pc past the FX0A; when no
key is awaited it has no effect (D21, D34). -/
def Obligations.DeliverKeyEndsTheWait : Prop :=
  ∀ (k : Key) (s : State),
    (∀ r, s.mode = .awaitingKey r →
      (readV r (applyEvent (.deliverKey k) s)).toNat = k.val ∧
      (applyEvent (.deliverKey k) s).mode = .running ∧ (applyEvent (.deliverKey k) s).pc = s.pc + 2 ∧
      Frame { regs := fun j => j = r, mode := True } s (applyEvent (.deliverKey k) s)) ∧
    ((∀ r, s.mode ≠ .awaitingKey r) → applyEvent (.deliverKey k) s = s)

/-- A key wait ends in a step only if the host delivers a key in that cycle, or resets (from R215, R240). The schedule
is the model's choice (log 1), and so is the move beyond it, a cycle with no events, which ends no wait (log 2). -/
def Obligations.KeyWaitEndsOnlyOnDelivery : Prop :=
  ∀ (s t : State) (r : Reg), s.mode = .awaitingKey r → step s = .next t → t.mode ≠ .awaitingKey r →
    (∃ events elapsed rest k, s.host.schedule = .cycle events elapsed :: rest ∧ .deliverKey k ∈ events) ∨
    ∃ now rest, s.host.schedule = .reset now :: rest

/-- R211: when at least 1/60 s has passed since `last_tick` both timers fall by one, floored at zero, and `last_tick`
becomes `now`; otherwise nothing changes. Phase 3 of a cycle is this update unless Faulted (D22). -/
def Obligations.TimerUpdateTicksAtSixtyHertz : Prop :=
  ∀ (now : Nat) (s : State),
    ((60 : Int) * ((now : Int) - s.lastTick) ≥ 1000000000 →
      (timerUpdate now s).dt.toNat = s.dt.toNat - 1 ∧ (timerUpdate now s).st.toNat = s.st.toNat - 1 ∧
      timerUpdate now s =
        { s with dt := (timerUpdate now s).dt, st := (timerUpdate now s).st, lastTick := now }) ∧
    ((60 : Int) * ((now : Int) - s.lastTick) < 1000000000 → timerUpdate now s = s) ∧
    phase3 now s = if s.mode = .faulted then s else timerUpdate now s

/-- The timers do not depend on what executes: after phases 2 and 3 of a cycle whose instruction neither faults nor
is FX15 or FX18, the timers and `last_tick` are what the timer update makes of their old values, and while a key is
awaited likewise (from R213, R104; D24). -/
def Obligations.TimersAreDecoupledFromInstructions : Prop :=
  ∀ (now : Nat) (s t : State), s.mode ≠ .faulted → phases23 now s = .next t → t.mode ≠ .faulted →
    (∀ x, decodeWord (wordAtPc s) ≠ some (.ldDtVx x) ∧ decodeWord (wordAtPc s) ≠ some (.ldStVx x)) →
    t.dt = (timerUpdate now s).dt ∧ t.st = (timerUpdate now s).st ∧ t.lastTick = (timerUpdate now s).lastTick

/-- R214: the sound is on exactly while ST is not zero and CORE is not Faulted; the audio output gives ST too
(D25). -/
def Obligations.SoundFollowsTheSoundTimer : Prop :=
  ∀ s : State, (soundOn s = true ↔ s.st.toNat ≠ 0 ∧ s.mode ≠ .faulted) ∧ soundOut s = (soundOn s, s.st)

/-- What the host can read in every state: the display and dirty (from R219), the mode and the fault record (from
R228), and the source's wait-for-key flag, which is 1 exactly while a key is awaited (from R34). -/
def Obligations.OutputsShowTheState : Prop :=
  ∀ s : State, displayOut s = (s.display, s.dirty) ∧ statusOut s = (s.mode, s.fault) ∧
    (waitingForKey s = true ↔ ∃ r, s.mode = .awaitingKey r)

/-! ### Reset and boot -/

/-- Every element of CORE at the reset value of R42, `last_tick` at `now`. -/
structure ResetValues (now : Nat) (t : State) : Prop where
  mem : ∀ a, readByte t.mem a = 0
  regs : ∀ k, readV k t = 0
  index : t.i.toNat = 0
  pc : t.pc.toNat = 0x200
  stack : ∀ k : Fin 24, t.stack[k.val].toNat = 0
  sp : t.sp.val = 0
  dt : t.dt.toNat = 0
  st : t.st.toNat = 0
  lastTick : t.lastTick = now
  keys : ∀ k : Key, t.keys.getLsbD k.val = false
  pixels : ∀ r c, pixel t r c = false
  dirty : t.dirty = false
  mode : t.mode = .running
  cause : t.fault.cause.code = 0
  faultPc : t.fault.pc.toNat = 0
  faultAddr : t.fault.addr.toNat = 0

/-- Reset puts every element at its reset value, from any state, Faulted included, with `last_tick` at the `now`
supplied (from R42, R240; D15, D23). The schedule, which a reset leaves as it is, is the model's choice (log 1), and so is
that a reset may supply any `now` (log 19). `State.reset` is such a state, at the `now` that log 3 chooses. -/
def Obligations.ResetSetsEveryElement : Prop :=
  (∀ (s : State) (now : Nat) (rest : List HostMove), s.host.schedule = .reset now :: rest →
    ∃ t, step s = .next t ∧ ResetValues now t ∧ t.host.schedule = rest) ∧
  ResetValues State.reset.host.clock State.reset

/-- R58: the font load writes byte j of the table to address j, 80 bytes, and nothing else; it cannot fault. The
default table itself is from general knowledge (R57; log 8); the second part holds for any 80 bytes. -/
def Obligations.FontLoadWritesEightyBytes : Prop :=
  Config.font.length = 80 ∧
  (∀ (s : State) (rest : List HostMove), s.host.schedule = .loadFont :: rest → s.host.started = false →
    s.host.fontLoaded = false →
    ∃ t, step s = .next t ∧ (∀ j : Fin 80, some (readByte t.mem j.val) = Config.font[j.val]?) ∧
      t.pc = s.pc ∧ Frame { bytes := fun a => a < 80, host := True } s t) ∧
  ∀ (table : List Byte) (s : State), table.length = 80 →
    (∀ j : Fin 80, some (readByte (loadFontTable table s).mem j.val) = table[j.val]?) ∧
    (loadFontTable table s).pc = s.pc ∧ Frame { bytes := fun a => a < 80 } s (loadFontTable table s)

/-- R59: the program load copies the image to 0x200 onward; an image of more than 3584 bytes is rejected, memory
unchanged, the host told so, and CORE not run on it (D27). That a cycle on such an image is refused is how the model
says "must not be run" (log 7). -/
def Obligations.ProgramLoadCopiesOrRejects : Prop :=
  ∀ (s : State) (image : List Byte) (rest : List HostMove), s.host.schedule = .loadProgram image :: rest →
    s.host.started = false → s.host.image = .notLoaded →
    (image.length ≤ 3584 → ∃ t, step s = .next t ∧ t.host.image = .loaded ∧ t.pc = s.pc ∧
      (∀ j, j < image.length → some (readByte t.mem (0x200 + j)) = image[j]?) ∧
      Frame { bytes := fun a => 0x200 ≤ a ∧ a < 0x200 + image.length, host := True } s t) ∧
    (3584 < image.length → ∃ t, step s = .next t ∧ t.host.image = .rejected ∧ t.mem = s.mem ∧ t.pc = s.pc ∧
      Frame { host := True } s t ∧
      ∀ events elapsed more, rest = .cycle events elapsed :: more → step t = .refused .runOnRejectedImage)

/-- Loads after the first cycle since reset, and second loads, are refused by name: the model's form of "no move"
(from R67, R223, R225; D27; log 7). That a second program load is refused also when the first was rejected is the
model's choice: the spec leaves such a retry open (log 18). -/
def Obligations.LoadsOutsideBootAreRefused : Prop :=
  ∀ (s : State) (rest : List HostMove),
    (s.host.schedule = .loadFont :: rest → (s.host.started = true ∨ s.host.fontLoaded = true) →
      step s = .refused .loadOutsideBoot) ∧
    ∀ image, s.host.schedule = .loadProgram image :: rest →
      (s.host.started = true ∨ s.host.image ≠ .notLoaded) → step s = .refused .loadOutsideBoot

/-! ### The cycle -/

/-- R85: the fetch gives the big-endian word at A = pc (R55); with pc or pc + 1 above 0xFFF execution raises
FetchOutOfRange with that address and changes nothing else (D14, D15). -/
def Obligations.FetchReadsTheWordOrFaults : Prop :=
  ∀ s : State,
    (s.pc.toNat + 1 ≤ 0xFFF → ∃ w, fetch s = .ok w ∧ execute s = executeWord w s ∧
      w.toNat = (readByte s.mem s.pc.toNat).toNat * 256 + (readByte s.mem (s.pc.toNat + 1)).toNat) ∧
    (s.pc.toNat = 0xFFF → fetch s = .error 0x1000 ∧
      ∃ t, execute s = .next t ∧ Raised .fetchOutOfRange 0x1000 s t) ∧
    (0xFFF < s.pc.toNat → fetch s = .error s.pc.toNat ∧
      ∃ t, execute s = .next t ∧ Raised .fetchOutOfRange s.pc.toNat s t)

/-- A step whose scheduled move is a cycle applies the events (phase 1), then, if Running, runs the instruction that
the bytes at pc decode to (phase 2), then updates the timers unless Faulted (phase 3), and nothing else; with pc at
0xFFF or above the fetch raises FetchOutOfRange on the state after the events and the timers are not updated (from R85,
R100, R101, R206; the schedule is the model's, log 1). The events of phase 1 are in `ScheduledCycleIsTheCycle`. -/
def Obligations.StepRunsTheDecodedInstruction : Prop :=
  ∀ (s s1 : State) (events : List HostEvent) (elapsed : Nat) (rest : List HostMove),
    s.host.schedule = .cycle events elapsed :: rest → s.host.image ≠ .rejected → s.mode ≠ .faulted →
    s1 = applyEvents events (cycleStart s rest elapsed) → s1.mode = .running →
    (∀ i, s1.pc.toNat + 1 ≤ 0xFFF →
      decode [readByte s1.mem s1.pc.toNat, readByte s1.mem (s1.pc.toNat + 1)] = .ok (i, []) →
      step s = match exec i s1 with
        | .next t => .next (if t.mode = .faulted then t else timerUpdate (s.host.clock + elapsed) t)
        | .fault r => .fault r
        | .refused r => .refused r) ∧
    (0xFFF ≤ s1.pc.toNat →
      ∃ t, step s = .next t ∧ Raised .fetchOutOfRange (max 0x1000 s1.pc.toNat) s1 t)

/-- A step over a word without a row is a NOP followed by the timer update (from R88, R100, R103). -/
def Obligations.StepOverUnmatchedWordIsNop : Prop :=
  ∀ (s s1 : State) (events : List HostEvent) (elapsed : Nat) (rest : List HostMove),
    s.host.schedule = .cycle events elapsed :: rest → s.host.image ≠ .rejected → s.mode ≠ .faulted →
    s1 = applyEvents events (cycleStart s rest elapsed) → s1.mode = .running → s1.pc.toNat + 1 ≤ 0xFFF →
    decodeWord (wordAtPc s1) = none →
    step s = .next (timerUpdate (s.host.clock + elapsed) { s1 with pc := s1.pc + 2 })

/-- R104: a cycle in which a key is still awaited after phase 1, which applies every event, executes no instruction and
updates the timers; key_down and key_up do not end the wait; while Faulted a cycle changes nothing (D24). -/
def Obligations.AwaitingCycleOnlyKeepsTime : Prop :=
  (∀ (s s1 : State) (events : List HostEvent) (now : Nat) (r : Reg), s.mode ≠ .faulted →
    s1 = applyEvents events s → s1.mode = .awaitingKey r → coreCycle events now s = .next (timerUpdate now s1)) ∧
  (∀ (s : State) (events : List HostEvent) (r : Reg), s.mode = .awaitingKey r →
    (∀ e ∈ events, (∃ k, e = .keyDown k ∨ e = .keyUp k) ∨ e = .ackDisplay) →
    (applyEvents events s).mode = .awaitingKey r) ∧
  ∀ (s : State) (events : List HostEvent) (now : Nat), s.mode = .faulted → coreCycle events now s = .next s

/-- While Faulted a cycle changes nothing of CORE, whatever its events and its time, the sound is off, the outputs can
be read, and only reset leaves Faulted (from R204; D15). The model's choices in it: the schedule and the host's side
(log 1), the refusal that the second clause excludes (log 7), and that the move beyond the schedule is a cycle
(log 2). -/
def Obligations.FaultedUntilReset : Prop :=
  (∀ (s : State) (events : List HostEvent) (now : Nat), s.mode = .faulted →
    coreCycle events now s = .next s ∧ soundOut s = (false, s.st) ∧ displayOut s = (s.display, s.dirty) ∧
    statusOut s = (.faulted, s.fault)) ∧
  (∀ (s : State) (events : List HostEvent) (elapsed : Nat) (rest : List HostMove), s.mode = .faulted →
    s.host.schedule = .cycle events elapsed :: rest → s.host.image ≠ .rejected →
    ∃ h, step s = .next { s with host := h }) ∧
  ∀ (s t : State), s.mode = .faulted → step s = .next t → t.mode ≠ .faulted →
    ∃ now rest, s.host.schedule = .reset now :: rest

/-- A step whose scheduled move is a cycle is `Cycle(events, now)` of R100, with the schedule and the clock moved on
(the schedule is the model's, log 1; so is the refusal that the second hypothesis excludes, log 7). And what that cycle
is, from R100, R206: nothing while Faulted; else phase 1 applies each event once, in order, then phase 2 executes if
Running, then phase 3 updates the timers unless Faulted. -/
def Obligations.ScheduledCycleIsTheCycle : Prop :=
  (∀ (s : State) (events : List HostEvent) (elapsed : Nat) (rest : List HostMove),
    s.host.schedule = .cycle events elapsed :: rest → s.host.image ≠ .rejected →
    step s = coreCycle events (s.host.clock + elapsed) (cycleStart s rest elapsed)) ∧
  (∀ s, applyEvents [] s = s) ∧
  (∀ e es s, applyEvents (e :: es) s = applyEvents es (applyEvent e s)) ∧
  ∀ (events : List HostEvent) (now : Nat) (s s1 : State), s1 = applyEvents events s →
    (s.mode = .faulted → coreCycle events now s = .next s) ∧
    (s.mode ≠ .faulted → s1.mode ≠ .running →
      coreCycle events now s = .next (if s1.mode = .faulted then s1 else timerUpdate now s1)) ∧
    (s.mode ≠ .faulted → s1.mode = .running → ∀ t, execute s1 = .next t →
      coreCycle events now s = .next (if t.mode = .faulted then t else timerUpdate now t))

/-- Beyond the schedule a step is a cycle with no events after a free time: the model's choice (log 2). -/
def Obligations.BeyondTheScheduleIsAnIdleCycle : Prop :=
  ∀ s t : State, s.host.schedule = [] →
    t = setHost { s.host with schedule := [.cycle [] (Config.idleElapsed s.host.idle)], idle := s.host.idle + 1 } s →
    step s = step t

/-! ### Rules over all instructions -/

/-- The pc after an instruction that does not fault, row by row of R102. -/
def pcAfter (i : Instr) (s : State) : Word :=
  match i with
  | .jp nnn | .call nnn => BitVec.ofNat 16 nnn.toNat
  | .jpV0 nnn => BitVec.ofNat 16 (nnn.toNat + (readV 0 s).toNat)
  | .ret => if h : 0 < s.sp.val then s.stack[s.sp.val - 1]'(by have := s.sp.isLt; omega) else s.pc
  | .seImm x nn => if readV x s = nn then s.pc + 4 else s.pc + 2
  | .sneImm x nn => if readV x s = nn then s.pc + 2 else s.pc + 4
  | .seReg x y => if readV x s = readV y s then s.pc + 4 else s.pc + 2
  | .sneReg x y => if readV x s = readV y s then s.pc + 2 else s.pc + 4
  | .skp x => if held (readV x s) s then s.pc + 4 else s.pc + 2
  | .sknp x => if held (readV x s) s then s.pc + 2 else s.pc + 4
  | .ldVxK _ => s.pc
  | .cls | .sys _ | .ldImm _ _ | .addImm _ _ | .ldReg _ _ | .orReg _ _ | .andReg _ _ | .xorReg _ _
  | .addReg _ _ | .subReg _ _ | .shr _ _ | .subnReg _ _ | .shl _ _ | .ldI _ | .rnd _ _ | .drw _ _ _
  | .ldVxDt _ | .ldDtVx _ | .ldStVx _ | .addIVx _ | .ldFVx _ | .ldBVx _ | .storeRegs _ | .loadRegs _ => s.pc + 2

/-- R102: the pc after every instruction and every word without a row; after FX0A it moves to A + 2 only when the key is
delivered; an instruction that faults leaves it at A (R202) (D1, D2, D21). -/
def Obligations.PcAfterEveryInstruction : Prop :=
  (∀ (i : Instr) (s t : State), s.mode ≠ .faulted → exec i s = .next t →
    (t.mode ≠ .faulted → t.pc = pcAfter i s) ∧ (t.mode = .faulted → t.pc = s.pc)) ∧
  (∀ (x : Reg) (k : Key) (s t : State), exec (.ldVxK x) s = .next t →
    (applyEvent (.deliverKey k) t).pc = s.pc + 2) ∧
  ∀ (w : Word) (s t : State), decodeWord w = none → executeWord w s = .next t → t.pc = s.pc + 2

/-- Which instruction raises which cause in which state, with which address: the table of R201 row by row. -/
def Raises : Instr → State → FaultCause → Nat → Prop
  | .call _, s, c, a => c = .stackOverflow ∧ s.sp.val = 24 ∧ a = 0
  | .ret, s, c, a => c = .stackUnderflow ∧ s.sp.val = 0 ∧ a = 0
  | .drw _ _ n, s, c, a => c = .readOutOfRange ∧ LowestOutOfRange s.i.toNat n.toNat a
  | .loadRegs x, s, c, a => c = .readOutOfRange ∧ LowestOutOfRange s.i.toNat (x.val + 1) a
  | .ldBVx _, s, c, a => c = .writeOutOfRange ∧ LowestOutOfRange s.i.toNat 3 a
  | .storeRegs x, s, c, a => c = .writeOutOfRange ∧ LowestOutOfRange s.i.toNat (x.val + 1) a
  | .cls, _, _, _ | .sys _, _, _, _ | .jp _, _, _, _ | .seImm _ _, _, _, _ | .sneImm _ _, _, _, _
  | .seReg _ _, _, _, _ | .ldImm _ _, _, _, _ | .addImm _ _, _, _, _ | .ldReg _ _, _, _, _ | .orReg _ _, _, _, _
  | .andReg _ _, _, _, _ | .xorReg _ _, _, _, _ | .addReg _ _, _, _, _ | .subReg _ _, _, _, _ | .shr _ _, _, _, _
  | .subnReg _ _, _, _, _ | .shl _ _, _, _, _ | .sneReg _ _, _, _, _ | .ldI _, _, _, _ | .jpV0 _, _, _, _
  | .rnd _ _, _, _, _ | .skp _, _, _, _ | .sknp _, _, _, _ | .ldVxDt _, _, _, _ | .ldVxK _, _, _, _
  | .ldDtVx _, _, _, _ | .ldStVx _, _, _, _ | .addIVx _, _, _, _ | .ldFVx _, _, _, _ => False

/-- What an execution raises: the fetch is checked first (R205), then what the decoded instruction raises. -/
def ExecuteRaises (s : State) (c : FaultCause) (a : Nat) : Prop :=
  (0xFFF ≤ s.pc.toNat ∧ c = .fetchOutOfRange ∧ a = max 0x1000 s.pc.toNat) ∨
  (s.pc.toNat ≤ 0xFFE ∧ ∃ i, decodeWord (wordAtPc s) = some i ∧ Raises i s c a)

/-- R201, R202, R203, R205: the codes of the causes; an execution ends Faulted exactly when the fetch or the instruction
raises by the table of R201, the fetch first, and then it has changed nothing but the mode and the record, which holds
the cause, A and the address, the lowest of an access; so too for each instruction alone (D14, D15). -/
def Obligations.FaultsArePreciseAndFew : Prop :=
  (FaultCause.none.code = 0 ∧ FaultCause.stackOverflow.code = 1 ∧ FaultCause.stackUnderflow.code = 2 ∧
    FaultCause.fetchOutOfRange.code = 3 ∧ FaultCause.readOutOfRange.code = 4 ∧
    FaultCause.writeOutOfRange.code = 5) ∧
  (∀ s t : State, s.mode ≠ .faulted → execute s = .next t →
    (t.mode = .faulted ↔ ∃ c a, ExecuteRaises s c a) ∧ ∀ c a, ExecuteRaises s c a → Raised c a s t) ∧
  ∀ (i : Instr) (s t : State), s.mode ≠ .faulted → exec i s = .next t →
    (t.mode = .faulted ↔ ∃ c a, Raises i s c a) ∧ ∀ c a, Raises i s c a → Raised c a s t

/-- Which instructions write which element: I by ANNN, FX1E, FX29 (R25); the stack by 2NNN and 00EE (R28); memory by
FX33 and FX55 (R50); the display and dirty by 00E0 and DXYN (R32, R33); DT by FX15 and ST by FX18 (R29, R30); the
mode, but for a fault, by FX0A (R34); `keys` and `last_tick` by none (R31, R36); the random source by CXNN (R222). -/
def Obligations.OnlyTheNamedInstructionsWrite : Prop :=
  ∀ (i : Instr) (s t : State), exec i s = .next t →
    (t.i ≠ s.i → (∃ nnn, i = .ldI nnn) ∨ (∃ x, i = .addIVx x) ∨ ∃ x, i = .ldFVx x) ∧
    (t.stack ≠ s.stack ∨ t.sp ≠ s.sp → (∃ nnn, i = .call nnn) ∨ i = .ret) ∧
    ((∃ a, readByte t.mem a ≠ readByte s.mem a) → (∃ x, i = .ldBVx x) ∨ ∃ x, i = .storeRegs x) ∧
    (t.display ≠ s.display ∨ t.dirty ≠ s.dirty → i = .cls ∨ ∃ x y n, i = .drw x y n) ∧
    (t.dt ≠ s.dt → ∃ x, i = .ldDtVx x) ∧ (t.st ≠ s.st → ∃ x, i = .ldStVx x) ∧
    (t.mode ≠ s.mode → t.mode = .faulted ∨ ∃ x, i = .ldVxK x) ∧
    t.keys = s.keys ∧ t.lastTick = s.lastTick ∧ (t.host ≠ s.host → ∃ x nn, i = .rnd x nn)

/-- VF changes only by the six instructions with a flag or where VF is the explicit destination (from R22, R38). -/
def Obligations.VfChangesOnlyByFlagOrDestination : Prop :=
  ∀ (i : Instr) (s t : State), exec i s = .next t → readV 15 t ≠ readV 15 s →
    (∃ x y, i = .addReg x y ∨ i = .subReg x y ∨ i = .shr x y ∨ i = .subnReg x y ∨ i = .shl x y) ∨
    (∃ x y n, i = .drw x y n) ∨
    (∃ nn, i = .ldImm 15 nn ∨ i = .addImm 15 nn ∨ i = .rnd 15 nn) ∨
    (∃ y, i = .ldReg 15 y ∨ i = .orReg 15 y ∨ i = .andReg 15 y ∨ i = .xorReg 15 y) ∨
    i = .ldVxDt 15 ∨ i = .loadRegs 15

/-- Every instruction executes in every state: it answers a next state, never a stop (from R90, R209: no encoding is
illegal, no instruction is privileged; a fault is entered as a next state, R202, log 12). -/
def Obligations.EveryInstructionAnswersANextState : Prop :=
  ∀ (i : Instr) (s : State), ∃ t, exec i s = .next t

/-- Nothing but CXNN consumes or depends on the random source or on any other input of the host's side (from R222;
D33): any other instruction does the same whatever the host's side holds. -/
def Obligations.HostSideInfluencesOnlyRnd : Prop :=
  ∀ (i : Instr) (s t : State) (h : HostSide), (∀ x nn, i ≠ .rnd x nn) → exec i s = .next t →
    exec i (setHost h s) = .next (setHost h t)

/-! ### Memory and self-modification -/

/-- A write changes only the byte written, which then reads as the value written, in any memory; and it keeps the
canonical form (from R60, R62; log 10). -/
def Obligations.WriteChangesOnlyItsByte : Prop :=
  ∀ (m : Memory) (a : Nat) (w : Byte),
    readByte (writeByte m a w) a = w ∧ (∀ b, b ≠ a → readByte (writeByte m a w) b = readByte m b) ∧
    (m.wf → a ≤ 0xFFF → (writeByte m a w).wf)

/-- Two canonical memories that read alike at every address are equal data: the form is canonical (the model's
choice of data, log 10). -/
def Obligations.CanonicalMemoriesAreExtensional : Prop :=
  ∀ m m' : Memory, m.wf → m'.wf → (∀ a, readByte m a = readByte m' a) → m = m'

/-- The byte at an address after FX33 on Vx, from the state before it (R153). -/
def byteAfterDigits (x : Reg) (s : State) (a : Nat) : Byte :=
  if a = s.i.toNat then BitVec.ofNat 8 ((readV x s).toNat / 100)
  else if a = s.i.toNat + 1 then BitVec.ofNat 8 ((readV x s).toNat / 10 % 10)
  else if a = s.i.toNat + 2 then BitVec.ofNat 8 ((readV x s).toNat % 10)
  else readByte s.mem a

/-- The byte at an address after FX55 up to Vx, from the state before it (R154). -/
def byteAfterRegs (x : Reg) (s : State) (a : Nat) : Byte :=
  if h : s.i.toNat ≤ a ∧ a ≤ s.i.toNat + x.val then readV ⟨a - s.i.toNat, by have := x.isLt; omega⟩ s
  else readByte s.mem a

/-- A store by FX33 or FX55 into the bytes of the next instruction, wherever it begins and whether it covers both bytes
or one, is what the next fetch reads: self-modifying code works (from R65, R245). -/
def Obligations.StoredInstructionIsFetchedNext : Prop :=
  ∀ (x : Reg) (s : State) (next : Nat), next = (s.pc + 2).toNat → next ≤ 0xFFE →
    (s.i.toNat + 2 ≤ 0xFFF → ∃ t, exec (.ldBVx x) s = .next t ∧
      fetch t = .ok (wordOfBytes (byteAfterDigits x s next) (byteAfterDigits x s (next + 1)))) ∧
    (s.i.toNat + x.val ≤ 0xFFF → ∃ t, exec (.storeRegs x) s = .next t ∧
      fetch t = .ok (wordOfBytes (byteAfterRegs x s next) (byteAfterRegs x s (next + 1))))

/-- A word placed with `withFetchWord` is what the very next step executes, in a cycle with no events and no time
passed (the model's own operation, log 15). -/
def Obligations.PlacedWordRunsNext : Prop :=
  ∀ (s : State) (w : Word), ∃ s1 : State,
    s1.mode = .running ∧ wordAtPc s1 = w ∧ s1.pc.toNat ≤ 0xFFE ∧ (s.pc.toNat ≤ 0xFFE → s1.pc = s.pc) ∧
    Frame { bytes := fun a => a = s1.pc.toNat ∨ a = s1.pc.toNat + 1, mode := True, host := True } s s1 ∧
    step (s.withFetchWord 16 w.toNat) = match executeWord w s1 with
      | .next t => .next (if t.mode = .faulted then t else timerUpdate s.host.clock t)
      | .fault r => .fault r
      | .refused r => .refused r

/-! ### Invariants -/

/-- The invariant holds right after reset, whatever the host's side and the `now` it supplies, and at
`State.reset`. -/
def Obligations.ResetMeetsTheInvariant : Prop :=
  (∀ (now : Nat) (h : HostSide), Invariant (resetAt now h)) ∧ Invariant State.reset

/-- From every state that meets the invariant, any step that answers a next state, whatever move the host makes,
gives a state that meets it: memory stays canonical, pc never exceeds 0x10FE (R27), return addresses never exceed
0x1000, the fault record agrees with the mode (R35, R202), the timestamp is a past `now` (R36). -/
def Obligations.StepKeepsTheInvariant : Prop :=
  ∀ s t : State, Invariant s → step s = .next t → Invariant t
end

