-- ==== Sys2Proof/Laws/Memory.lean ====
section
/-! SUPPORT. What the memory operations do, said once: reads after writes, runs of bytes, and that every operation
keeps the canonical form. -/

namespace Sys2Proof.Machine

@[simp] theorem readByte_nil (a : Nat) : readByte [] a = unlistedByte := rfl

@[simp] theorem readByte_cons (c : Host.Cell) (m : Memory) (a : Nat) :
    readByte (c :: m) a = if c.1 = a then c.2 else readByte m a := rfl

@[simp] theorem outOfRange_iff (a : Nat) : outOfRange a = true ↔ 0xFFF < a := by simp [outOfRange]

/-- No cell of the address: the read gives the unlisted byte. -/
theorem readByte_of_unlisted {m : Memory} {a : Nat} (h : ∀ c ∈ m, c.1 ≠ a) : readByte m a = unlistedByte := by
  induction m with
  | nil => rfl
  | cons c m ih =>
    rw [readByte_cons, if_neg (h c (List.mem_cons_self ..)), ih (fun d hd => h d (List.mem_cons_of_mem _ hd))]

theorem readByte_filter_ne (m : Memory) (a b : Nat) :
    readByte (m.filter (fun c => c.1 != a)) b = if b = a then unlistedByte else readByte m b := by
  induction m with
  | nil => simp
  | cons c m ih =>
    by_cases hc : c.1 = a
    · rw [List.filter_cons_of_neg (by simp [hc]), ih]
      by_cases hb : b = a
      · simp [hb]
      · rw [if_neg hb, if_neg hb, readByte_cons, if_neg (by rw [hc]; exact fun h => hb h.symm)]
    · rw [List.filter_cons_of_pos (by simp [hc]), readByte_cons, readByte_cons, ih]
      by_cases hb : b = a
      · rw [if_pos hb, if_pos hb, if_neg (by rw [hb]; exact hc)]
      · simp [hb]

theorem readByte_insertCell {m : Memory} {c : Host.Cell} (h : ∀ d ∈ m, d.1 ≠ c.1) (b : Nat) :
    readByte (insertCell c m) b = if b = c.1 then c.2 else readByte m b := by
  induction m with
  | nil => simp [insertCell, eq_comm]
  | cons d m ih =>
    have hd : d.1 ≠ c.1 := h d (List.mem_cons_self ..)
    have hm := ih (fun e he => h e (List.mem_cons_of_mem _ he))
    unfold insertCell
    split
    · rw [readByte_cons]; simp only [eq_comm]
    · rw [readByte_cons, readByte_cons, hm]
      by_cases hb : b = c.1
      · rw [if_pos hb, if_pos hb, if_neg (by rw [hb]; exact hd)]
      · simp [hb]

/-- A read after a write: the written byte at its address, every other byte as before (R60), in any memory. -/
@[simp] theorem readByte_writeByte (m : Memory) (a b : Nat) (w : Byte) :
    readByte (writeByte m a w) b = if b = a then w else readByte m b := by
  have hne : ∀ d ∈ m.filter (fun c => c.1 != a), d.1 ≠ a := by
    intro d hd; simpa using (List.mem_filter.mp hd).2
  simp only [writeByte]
  split
  · rename_i hw
    rw [readByte_filter_ne, hw]
  · rw [readByte_insertCell hne, readByte_filter_ne]
    by_cases hb : b = a <;> simp [hb]

/-! ### The canonical form -/

theorem mem_insertCell {c d : Host.Cell} {m : Memory} : d ∈ insertCell c m ↔ d = c ∨ d ∈ m := by
  induction m with
  | nil => simp [insertCell]
  | cons e m ih =>
    unfold insertCell
    split
    · simp
    · simp only [List.mem_cons, ih]; tauto

theorem pairwise_insertCell {c : Host.Cell} {m : Memory} (h : m.Pairwise (fun c d => c.1 < d.1))
    (hne : ∀ d ∈ m, d.1 ≠ c.1) : (insertCell c m).Pairwise (fun c d => c.1 < d.1) := by
  induction m with
  | nil => simp [insertCell]
  | cons d m ih =>
    obtain ⟨hd, hm⟩ := List.pairwise_cons.mp h
    unfold insertCell
    split
    · rename_i hlt
      refine List.pairwise_cons.mpr ⟨fun e he => ?_, h⟩
      rcases List.mem_cons.mp he with rfl | he
      · exact hlt
      · exact lt_trans hlt (hd e he)
    · rename_i hlt
      have hdc : d.1 ≠ c.1 := hne d (List.mem_cons_self ..)
      refine List.pairwise_cons.mpr ⟨fun e he => ?_, ih hm (fun e he => hne e (List.mem_cons_of_mem _ he))⟩
      rcases mem_insertCell.mp he with rfl | he
      · omega
      · exact hd e he

theorem wf_nil : Memory.wf [] := by simp [Memory.wf]

/-- A write inside the address space keeps the canonical form. -/
theorem wf_writeByte {m : Memory} {a : Nat} (h : m.wf) (ha : a ≤ 0xFFF) (w : Byte) : (writeByte m a w).wf := by
  have hf : (m.filter (fun c => c.1 != a)).Pairwise (fun c d => c.1 < d.1) := h.1.filter _
  have hall : ∀ c ∈ m.filter (fun c => c.1 != a), c.1 < Config.memSize ∧ c.2 ≠ 0 :=
    fun c hc => h.2 c (List.mem_filter.mp hc).1
  simp only [writeByte]
  split
  · exact ⟨hf, hall⟩
  · rename_i hw
    refine ⟨pairwise_insertCell hf (fun d hd => by simpa using (List.mem_filter.mp hd).2), fun c hc => ?_⟩
    rcases mem_insertCell.mp hc with rfl | hc
    · exact ⟨Nat.lt_of_le_of_lt ha (by decide), hw⟩
    · exact hall c hc

/-- The reset memory is canonical. -/
theorem wf_reset : State.reset.mem.wf := wf_nil

/-! ### Runs of bytes -/

/-- What a run of reads can answer: every byte in range, in order; or the lowest address out of range. -/
theorem readBytes_cases (m : Memory) (a n : Nat) :
    (readBytes m a n = .ok ((List.range n).map fun k => readByte m (a + k)) ∧ ∀ k < n, a + k ≤ 0xFFF) ∨
    ∃ k < n, readBytes m a n = .error (a + k) ∧ 0xFFF < a + k ∧ ∀ j < k, a + j ≤ 0xFFF := by
  induction n generalizing a with
  | zero => left; simp [readBytes]
  | succ n ih =>
    by_cases ha : 0xFFF < a
    · right; exact ⟨0, by omega, by simp [readBytes, ha], by omega, by omega⟩
    · rcases ih (a + 1) with ⟨h, hr⟩ | ⟨k, hk, h, ho, hl⟩
      · left
        refine ⟨?_, fun k hk => ?_⟩
        · simp [readBytes, ha, h, List.range_succ_eq_map, Function.comp_def, Nat.add_assoc, Nat.add_comm 1]
        · rcases k with _ | k
          · omega
          · have := hr k (by omega); omega
      · right
        refine ⟨k + 1, by omega, ?_, by omega, fun j hj => ?_⟩
        · simp only [readBytes, outOfRange_iff, if_neg ha, h]; congr 1; omega
        · rcases j with _ | j
          · omega
          · have := hl j (by omega); omega

/-- What a run of writes can answer: a memory in which each address of the run reads as its byte and every other as
before, canonical if it was; or the lowest address out of range. -/
theorem writeBytes_cases (m : Memory) (a : Nat) (bs : List Byte) :
    (∃ m', writeBytes m a bs = .ok m' ∧ (∀ k < bs.length, a + k ≤ 0xFFF) ∧
      (∀ k, (h : k < bs.length) → readByte m' (a + k) = bs[k]) ∧
      (∀ b, (b < a ∨ a + bs.length ≤ b) → readByte m' b = readByte m b) ∧ (m.wf → m'.wf)) ∨
    ∃ k < bs.length, writeBytes m a bs = .error (a + k) ∧ 0xFFF < a + k ∧ ∀ j < k, a + j ≤ 0xFFF := by
  induction bs generalizing m a with
  | nil => left; exact ⟨m, rfl, by simp, by simp, fun _ _ => rfl, id⟩
  | cons w bs ih =>
    by_cases ha : 0xFFF < a
    · right; exact ⟨0, by simp, by simp [writeBytes, ha], by omega, by omega⟩
    · rcases ih (writeByte m a w) (a + 1) with ⟨m', h, hr, hb, hf, hw⟩ | ⟨k, hk, h, ho, hl⟩
      · left
        refine ⟨m', by simp [writeBytes, ha, h], fun k hk => ?_, fun k hk => ?_, fun b hb' => ?_,
          fun hm => hw (wf_writeByte hm (by omega) w)⟩
        · rcases k with _ | k
          · omega
          · have := hr k (by simpa using hk); omega
        · rcases k with _ | k
          · rw [hf (a + 0) (by omega)]; simp
          · have := hb k (by simpa using hk)
            rw [show a + (k + 1) = a + 1 + k by omega, this]; simp
        · rw [List.length_cons] at hb'
          rw [hf b (by omega), readByte_writeByte, if_neg (by omega)]
      · right
        refine ⟨k + 1, by simpa using hk, ?_, by omega, fun j hj => ?_⟩
        · simp only [writeBytes, outOfRange_iff, if_neg ha, h]; congr 1; omega
        · rcases j with _ | j
          · omega
          · have := hl j (by omega); omega

end Sys2Proof.Machine
end

