-- ==== Sys2Proof/Laws/State.lean ====
section
/-! SUPPORT. One lemma for each field of State under each named update: the field written reads as the new value and
every other field as before. -/

namespace Sys2Proof.Machine

@[simp] theorem setPc_mem (a : Word) (s : State) : (setPc a s).mem = s.mem := rfl
@[simp] theorem setPc_v (a : Word) (s : State) : (setPc a s).v = s.v := rfl
@[simp] theorem setPc_i (a : Word) (s : State) : (setPc a s).i = s.i := rfl
@[simp] theorem setPc_pc (a : Word) (s : State) : (setPc a s).pc = a := rfl
@[simp] theorem setPc_stack (a : Word) (s : State) : (setPc a s).stack = s.stack := rfl
@[simp] theorem setPc_sp (a : Word) (s : State) : (setPc a s).sp = s.sp := rfl
@[simp] theorem setPc_dt (a : Word) (s : State) : (setPc a s).dt = s.dt := rfl
@[simp] theorem setPc_st (a : Word) (s : State) : (setPc a s).st = s.st := rfl
@[simp] theorem setPc_lastTick (a : Word) (s : State) : (setPc a s).lastTick = s.lastTick := rfl
@[simp] theorem setPc_keys (a : Word) (s : State) : (setPc a s).keys = s.keys := rfl
@[simp] theorem setPc_display (a : Word) (s : State) : (setPc a s).display = s.display := rfl
@[simp] theorem setPc_dirty (a : Word) (s : State) : (setPc a s).dirty = s.dirty := rfl
@[simp] theorem setPc_mode (a : Word) (s : State) : (setPc a s).mode = s.mode := rfl
@[simp] theorem setPc_fault (a : Word) (s : State) : (setPc a s).fault = s.fault := rfl
@[simp] theorem setPc_host (a : Word) (s : State) : (setPc a s).host = s.host := rfl

@[simp] theorem setI_mem (a : Word) (s : State) : (setI a s).mem = s.mem := rfl
@[simp] theorem setI_v (a : Word) (s : State) : (setI a s).v = s.v := rfl
@[simp] theorem setI_i (a : Word) (s : State) : (setI a s).i = a := rfl
@[simp] theorem setI_pc (a : Word) (s : State) : (setI a s).pc = s.pc := rfl
@[simp] theorem setI_stack (a : Word) (s : State) : (setI a s).stack = s.stack := rfl
@[simp] theorem setI_sp (a : Word) (s : State) : (setI a s).sp = s.sp := rfl
@[simp] theorem setI_dt (a : Word) (s : State) : (setI a s).dt = s.dt := rfl
@[simp] theorem setI_st (a : Word) (s : State) : (setI a s).st = s.st := rfl
@[simp] theorem setI_lastTick (a : Word) (s : State) : (setI a s).lastTick = s.lastTick := rfl
@[simp] theorem setI_keys (a : Word) (s : State) : (setI a s).keys = s.keys := rfl
@[simp] theorem setI_display (a : Word) (s : State) : (setI a s).display = s.display := rfl
@[simp] theorem setI_dirty (a : Word) (s : State) : (setI a s).dirty = s.dirty := rfl
@[simp] theorem setI_mode (a : Word) (s : State) : (setI a s).mode = s.mode := rfl
@[simp] theorem setI_fault (a : Word) (s : State) : (setI a s).fault = s.fault := rfl
@[simp] theorem setI_host (a : Word) (s : State) : (setI a s).host = s.host := rfl

@[simp] theorem setDt_mem (b : Byte) (s : State) : (setDt b s).mem = s.mem := rfl
@[simp] theorem setDt_v (b : Byte) (s : State) : (setDt b s).v = s.v := rfl
@[simp] theorem setDt_i (b : Byte) (s : State) : (setDt b s).i = s.i := rfl
@[simp] theorem setDt_pc (b : Byte) (s : State) : (setDt b s).pc = s.pc := rfl
@[simp] theorem setDt_stack (b : Byte) (s : State) : (setDt b s).stack = s.stack := rfl
@[simp] theorem setDt_sp (b : Byte) (s : State) : (setDt b s).sp = s.sp := rfl
@[simp] theorem setDt_dt (b : Byte) (s : State) : (setDt b s).dt = b := rfl
@[simp] theorem setDt_st (b : Byte) (s : State) : (setDt b s).st = s.st := rfl
@[simp] theorem setDt_lastTick (b : Byte) (s : State) : (setDt b s).lastTick = s.lastTick := rfl
@[simp] theorem setDt_keys (b : Byte) (s : State) : (setDt b s).keys = s.keys := rfl
@[simp] theorem setDt_display (b : Byte) (s : State) : (setDt b s).display = s.display := rfl
@[simp] theorem setDt_dirty (b : Byte) (s : State) : (setDt b s).dirty = s.dirty := rfl
@[simp] theorem setDt_mode (b : Byte) (s : State) : (setDt b s).mode = s.mode := rfl
@[simp] theorem setDt_fault (b : Byte) (s : State) : (setDt b s).fault = s.fault := rfl
@[simp] theorem setDt_host (b : Byte) (s : State) : (setDt b s).host = s.host := rfl

@[simp] theorem setSt_mem (b : Byte) (s : State) : (setSt b s).mem = s.mem := rfl
@[simp] theorem setSt_v (b : Byte) (s : State) : (setSt b s).v = s.v := rfl
@[simp] theorem setSt_i (b : Byte) (s : State) : (setSt b s).i = s.i := rfl
@[simp] theorem setSt_pc (b : Byte) (s : State) : (setSt b s).pc = s.pc := rfl
@[simp] theorem setSt_stack (b : Byte) (s : State) : (setSt b s).stack = s.stack := rfl
@[simp] theorem setSt_sp (b : Byte) (s : State) : (setSt b s).sp = s.sp := rfl
@[simp] theorem setSt_dt (b : Byte) (s : State) : (setSt b s).dt = s.dt := rfl
@[simp] theorem setSt_st (b : Byte) (s : State) : (setSt b s).st = b := rfl
@[simp] theorem setSt_lastTick (b : Byte) (s : State) : (setSt b s).lastTick = s.lastTick := rfl
@[simp] theorem setSt_keys (b : Byte) (s : State) : (setSt b s).keys = s.keys := rfl
@[simp] theorem setSt_display (b : Byte) (s : State) : (setSt b s).display = s.display := rfl
@[simp] theorem setSt_dirty (b : Byte) (s : State) : (setSt b s).dirty = s.dirty := rfl
@[simp] theorem setSt_mode (b : Byte) (s : State) : (setSt b s).mode = s.mode := rfl
@[simp] theorem setSt_fault (b : Byte) (s : State) : (setSt b s).fault = s.fault := rfl
@[simp] theorem setSt_host (b : Byte) (s : State) : (setSt b s).host = s.host := rfl

@[simp] theorem setMem_mem (m : Memory) (s : State) : (setMem m s).mem = m := rfl
@[simp] theorem setMem_v (m : Memory) (s : State) : (setMem m s).v = s.v := rfl
@[simp] theorem setMem_i (m : Memory) (s : State) : (setMem m s).i = s.i := rfl
@[simp] theorem setMem_pc (m : Memory) (s : State) : (setMem m s).pc = s.pc := rfl
@[simp] theorem setMem_stack (m : Memory) (s : State) : (setMem m s).stack = s.stack := rfl
@[simp] theorem setMem_sp (m : Memory) (s : State) : (setMem m s).sp = s.sp := rfl
@[simp] theorem setMem_dt (m : Memory) (s : State) : (setMem m s).dt = s.dt := rfl
@[simp] theorem setMem_st (m : Memory) (s : State) : (setMem m s).st = s.st := rfl
@[simp] theorem setMem_lastTick (m : Memory) (s : State) : (setMem m s).lastTick = s.lastTick := rfl
@[simp] theorem setMem_keys (m : Memory) (s : State) : (setMem m s).keys = s.keys := rfl
@[simp] theorem setMem_display (m : Memory) (s : State) : (setMem m s).display = s.display := rfl
@[simp] theorem setMem_dirty (m : Memory) (s : State) : (setMem m s).dirty = s.dirty := rfl
@[simp] theorem setMem_mode (m : Memory) (s : State) : (setMem m s).mode = s.mode := rfl
@[simp] theorem setMem_fault (m : Memory) (s : State) : (setMem m s).fault = s.fault := rfl
@[simp] theorem setMem_host (m : Memory) (s : State) : (setMem m s).host = s.host := rfl

@[simp] theorem setRegs_mem (r : Vector Byte 16) (s : State) : (setRegs r s).mem = s.mem := rfl
@[simp] theorem setRegs_v (r : Vector Byte 16) (s : State) : (setRegs r s).v = r := rfl
@[simp] theorem setRegs_i (r : Vector Byte 16) (s : State) : (setRegs r s).i = s.i := rfl
@[simp] theorem setRegs_pc (r : Vector Byte 16) (s : State) : (setRegs r s).pc = s.pc := rfl
@[simp] theorem setRegs_stack (r : Vector Byte 16) (s : State) : (setRegs r s).stack = s.stack := rfl
@[simp] theorem setRegs_sp (r : Vector Byte 16) (s : State) : (setRegs r s).sp = s.sp := rfl
@[simp] theorem setRegs_dt (r : Vector Byte 16) (s : State) : (setRegs r s).dt = s.dt := rfl
@[simp] theorem setRegs_st (r : Vector Byte 16) (s : State) : (setRegs r s).st = s.st := rfl
@[simp] theorem setRegs_lastTick (r : Vector Byte 16) (s : State) : (setRegs r s).lastTick = s.lastTick := rfl
@[simp] theorem setRegs_keys (r : Vector Byte 16) (s : State) : (setRegs r s).keys = s.keys := rfl
@[simp] theorem setRegs_display (r : Vector Byte 16) (s : State) : (setRegs r s).display = s.display := rfl
@[simp] theorem setRegs_dirty (r : Vector Byte 16) (s : State) : (setRegs r s).dirty = s.dirty := rfl
@[simp] theorem setRegs_mode (r : Vector Byte 16) (s : State) : (setRegs r s).mode = s.mode := rfl
@[simp] theorem setRegs_fault (r : Vector Byte 16) (s : State) : (setRegs r s).fault = s.fault := rfl
@[simp] theorem setRegs_host (r : Vector Byte 16) (s : State) : (setRegs r s).host = s.host := rfl

@[simp] theorem setKeys_mem (k : BitVec 16) (s : State) : (setKeys k s).mem = s.mem := rfl
@[simp] theorem setKeys_v (k : BitVec 16) (s : State) : (setKeys k s).v = s.v := rfl
@[simp] theorem setKeys_i (k : BitVec 16) (s : State) : (setKeys k s).i = s.i := rfl
@[simp] theorem setKeys_pc (k : BitVec 16) (s : State) : (setKeys k s).pc = s.pc := rfl
@[simp] theorem setKeys_stack (k : BitVec 16) (s : State) : (setKeys k s).stack = s.stack := rfl
@[simp] theorem setKeys_sp (k : BitVec 16) (s : State) : (setKeys k s).sp = s.sp := rfl
@[simp] theorem setKeys_dt (k : BitVec 16) (s : State) : (setKeys k s).dt = s.dt := rfl
@[simp] theorem setKeys_st (k : BitVec 16) (s : State) : (setKeys k s).st = s.st := rfl
@[simp] theorem setKeys_lastTick (k : BitVec 16) (s : State) : (setKeys k s).lastTick = s.lastTick := rfl
@[simp] theorem setKeys_keys (k : BitVec 16) (s : State) : (setKeys k s).keys = k := rfl
@[simp] theorem setKeys_display (k : BitVec 16) (s : State) : (setKeys k s).display = s.display := rfl
@[simp] theorem setKeys_dirty (k : BitVec 16) (s : State) : (setKeys k s).dirty = s.dirty := rfl
@[simp] theorem setKeys_mode (k : BitVec 16) (s : State) : (setKeys k s).mode = s.mode := rfl
@[simp] theorem setKeys_fault (k : BitVec 16) (s : State) : (setKeys k s).fault = s.fault := rfl
@[simp] theorem setKeys_host (k : BitVec 16) (s : State) : (setKeys k s).host = s.host := rfl

@[simp] theorem setMode_mem (m : Mode) (s : State) : (setMode m s).mem = s.mem := rfl
@[simp] theorem setMode_v (m : Mode) (s : State) : (setMode m s).v = s.v := rfl
@[simp] theorem setMode_i (m : Mode) (s : State) : (setMode m s).i = s.i := rfl
@[simp] theorem setMode_pc (m : Mode) (s : State) : (setMode m s).pc = s.pc := rfl
@[simp] theorem setMode_stack (m : Mode) (s : State) : (setMode m s).stack = s.stack := rfl
@[simp] theorem setMode_sp (m : Mode) (s : State) : (setMode m s).sp = s.sp := rfl
@[simp] theorem setMode_dt (m : Mode) (s : State) : (setMode m s).dt = s.dt := rfl
@[simp] theorem setMode_st (m : Mode) (s : State) : (setMode m s).st = s.st := rfl
@[simp] theorem setMode_lastTick (m : Mode) (s : State) : (setMode m s).lastTick = s.lastTick := rfl
@[simp] theorem setMode_keys (m : Mode) (s : State) : (setMode m s).keys = s.keys := rfl
@[simp] theorem setMode_display (m : Mode) (s : State) : (setMode m s).display = s.display := rfl
@[simp] theorem setMode_dirty (m : Mode) (s : State) : (setMode m s).dirty = s.dirty := rfl
@[simp] theorem setMode_mode (m : Mode) (s : State) : (setMode m s).mode = m := rfl
@[simp] theorem setMode_fault (m : Mode) (s : State) : (setMode m s).fault = s.fault := rfl
@[simp] theorem setMode_host (m : Mode) (s : State) : (setMode m s).host = s.host := rfl

@[simp] theorem setDirty_mem (b : Bool) (s : State) : (setDirty b s).mem = s.mem := rfl
@[simp] theorem setDirty_v (b : Bool) (s : State) : (setDirty b s).v = s.v := rfl
@[simp] theorem setDirty_i (b : Bool) (s : State) : (setDirty b s).i = s.i := rfl
@[simp] theorem setDirty_pc (b : Bool) (s : State) : (setDirty b s).pc = s.pc := rfl
@[simp] theorem setDirty_stack (b : Bool) (s : State) : (setDirty b s).stack = s.stack := rfl
@[simp] theorem setDirty_sp (b : Bool) (s : State) : (setDirty b s).sp = s.sp := rfl
@[simp] theorem setDirty_dt (b : Bool) (s : State) : (setDirty b s).dt = s.dt := rfl
@[simp] theorem setDirty_st (b : Bool) (s : State) : (setDirty b s).st = s.st := rfl
@[simp] theorem setDirty_lastTick (b : Bool) (s : State) : (setDirty b s).lastTick = s.lastTick := rfl
@[simp] theorem setDirty_keys (b : Bool) (s : State) : (setDirty b s).keys = s.keys := rfl
@[simp] theorem setDirty_display (b : Bool) (s : State) : (setDirty b s).display = s.display := rfl
@[simp] theorem setDirty_dirty (b : Bool) (s : State) : (setDirty b s).dirty = b := rfl
@[simp] theorem setDirty_mode (b : Bool) (s : State) : (setDirty b s).mode = s.mode := rfl
@[simp] theorem setDirty_fault (b : Bool) (s : State) : (setDirty b s).fault = s.fault := rfl
@[simp] theorem setDirty_host (b : Bool) (s : State) : (setDirty b s).host = s.host := rfl

@[simp] theorem setDisplay_mem (d : Display) (s : State) : (setDisplay d s).mem = s.mem := rfl
@[simp] theorem setDisplay_v (d : Display) (s : State) : (setDisplay d s).v = s.v := rfl
@[simp] theorem setDisplay_i (d : Display) (s : State) : (setDisplay d s).i = s.i := rfl
@[simp] theorem setDisplay_pc (d : Display) (s : State) : (setDisplay d s).pc = s.pc := rfl
@[simp] theorem setDisplay_stack (d : Display) (s : State) : (setDisplay d s).stack = s.stack := rfl
@[simp] theorem setDisplay_sp (d : Display) (s : State) : (setDisplay d s).sp = s.sp := rfl
@[simp] theorem setDisplay_dt (d : Display) (s : State) : (setDisplay d s).dt = s.dt := rfl
@[simp] theorem setDisplay_st (d : Display) (s : State) : (setDisplay d s).st = s.st := rfl
@[simp] theorem setDisplay_lastTick (d : Display) (s : State) : (setDisplay d s).lastTick = s.lastTick := rfl
@[simp] theorem setDisplay_keys (d : Display) (s : State) : (setDisplay d s).keys = s.keys := rfl
@[simp] theorem setDisplay_display (d : Display) (s : State) : (setDisplay d s).display = d := rfl
@[simp] theorem setDisplay_dirty (d : Display) (s : State) : (setDisplay d s).dirty = s.dirty := rfl
@[simp] theorem setDisplay_mode (d : Display) (s : State) : (setDisplay d s).mode = s.mode := rfl
@[simp] theorem setDisplay_fault (d : Display) (s : State) : (setDisplay d s).fault = s.fault := rfl
@[simp] theorem setDisplay_host (d : Display) (s : State) : (setDisplay d s).host = s.host := rfl

@[simp] theorem setHost_mem (h : HostSide) (s : State) : (setHost h s).mem = s.mem := rfl
@[simp] theorem setHost_v (h : HostSide) (s : State) : (setHost h s).v = s.v := rfl
@[simp] theorem setHost_i (h : HostSide) (s : State) : (setHost h s).i = s.i := rfl
@[simp] theorem setHost_pc (h : HostSide) (s : State) : (setHost h s).pc = s.pc := rfl
@[simp] theorem setHost_stack (h : HostSide) (s : State) : (setHost h s).stack = s.stack := rfl
@[simp] theorem setHost_sp (h : HostSide) (s : State) : (setHost h s).sp = s.sp := rfl
@[simp] theorem setHost_dt (h : HostSide) (s : State) : (setHost h s).dt = s.dt := rfl
@[simp] theorem setHost_st (h : HostSide) (s : State) : (setHost h s).st = s.st := rfl
@[simp] theorem setHost_lastTick (h : HostSide) (s : State) : (setHost h s).lastTick = s.lastTick := rfl
@[simp] theorem setHost_keys (h : HostSide) (s : State) : (setHost h s).keys = s.keys := rfl
@[simp] theorem setHost_display (h : HostSide) (s : State) : (setHost h s).display = s.display := rfl
@[simp] theorem setHost_dirty (h : HostSide) (s : State) : (setHost h s).dirty = s.dirty := rfl
@[simp] theorem setHost_mode (h : HostSide) (s : State) : (setHost h s).mode = s.mode := rfl
@[simp] theorem setHost_fault (h : HostSide) (s : State) : (setHost h s).fault = s.fault := rfl
@[simp] theorem setHost_host (h : HostSide) (s : State) : (setHost h s).host = h := rfl

@[simp] theorem advance_mem (s : State) : (advance s).mem = s.mem := rfl
@[simp] theorem advance_v (s : State) : (advance s).v = s.v := rfl
@[simp] theorem advance_i (s : State) : (advance s).i = s.i := rfl
@[simp] theorem advance_pc (s : State) : (advance s).pc = s.pc + 2 := rfl
@[simp] theorem advance_stack (s : State) : (advance s).stack = s.stack := rfl
@[simp] theorem advance_sp (s : State) : (advance s).sp = s.sp := rfl
@[simp] theorem advance_dt (s : State) : (advance s).dt = s.dt := rfl
@[simp] theorem advance_st (s : State) : (advance s).st = s.st := rfl
@[simp] theorem advance_lastTick (s : State) : (advance s).lastTick = s.lastTick := rfl
@[simp] theorem advance_keys (s : State) : (advance s).keys = s.keys := rfl
@[simp] theorem advance_display (s : State) : (advance s).display = s.display := rfl
@[simp] theorem advance_dirty (s : State) : (advance s).dirty = s.dirty := rfl
@[simp] theorem advance_mode (s : State) : (advance s).mode = s.mode := rfl
@[simp] theorem advance_fault (s : State) : (advance s).fault = s.fault := rfl
@[simp] theorem advance_host (s : State) : (advance s).host = s.host := rfl

@[simp] theorem skipIf_mem (c : Bool) (s : State) : (skipIf c s).mem = s.mem := rfl
@[simp] theorem skipIf_v (c : Bool) (s : State) : (skipIf c s).v = s.v := rfl
@[simp] theorem skipIf_i (c : Bool) (s : State) : (skipIf c s).i = s.i := rfl
@[simp] theorem skipIf_pc (c : Bool) (s : State) : (skipIf c s).pc = if c then s.pc + 4 else s.pc + 2 := rfl
@[simp] theorem skipIf_stack (c : Bool) (s : State) : (skipIf c s).stack = s.stack := rfl
@[simp] theorem skipIf_sp (c : Bool) (s : State) : (skipIf c s).sp = s.sp := rfl
@[simp] theorem skipIf_dt (c : Bool) (s : State) : (skipIf c s).dt = s.dt := rfl
@[simp] theorem skipIf_st (c : Bool) (s : State) : (skipIf c s).st = s.st := rfl
@[simp] theorem skipIf_lastTick (c : Bool) (s : State) : (skipIf c s).lastTick = s.lastTick := rfl
@[simp] theorem skipIf_keys (c : Bool) (s : State) : (skipIf c s).keys = s.keys := rfl
@[simp] theorem skipIf_display (c : Bool) (s : State) : (skipIf c s).display = s.display := rfl
@[simp] theorem skipIf_dirty (c : Bool) (s : State) : (skipIf c s).dirty = s.dirty := rfl
@[simp] theorem skipIf_mode (c : Bool) (s : State) : (skipIf c s).mode = s.mode := rfl
@[simp] theorem skipIf_fault (c : Bool) (s : State) : (skipIf c s).fault = s.fault := rfl
@[simp] theorem skipIf_host (c : Bool) (s : State) : (skipIf c s).host = s.host := rfl

@[simp] theorem writeV_mem (x : Reg) (b : Byte) (s : State) : (writeV x b s).mem = s.mem := rfl
@[simp] theorem writeV_v (x : Reg) (b : Byte) (s : State) : (writeV x b s).v = s.v.set x.val b := rfl
@[simp] theorem writeV_i (x : Reg) (b : Byte) (s : State) : (writeV x b s).i = s.i := rfl
@[simp] theorem writeV_pc (x : Reg) (b : Byte) (s : State) : (writeV x b s).pc = s.pc := rfl
@[simp] theorem writeV_stack (x : Reg) (b : Byte) (s : State) : (writeV x b s).stack = s.stack := rfl
@[simp] theorem writeV_sp (x : Reg) (b : Byte) (s : State) : (writeV x b s).sp = s.sp := rfl
@[simp] theorem writeV_dt (x : Reg) (b : Byte) (s : State) : (writeV x b s).dt = s.dt := rfl
@[simp] theorem writeV_st (x : Reg) (b : Byte) (s : State) : (writeV x b s).st = s.st := rfl
@[simp] theorem writeV_lastTick (x : Reg) (b : Byte) (s : State) : (writeV x b s).lastTick = s.lastTick := rfl
@[simp] theorem writeV_keys (x : Reg) (b : Byte) (s : State) : (writeV x b s).keys = s.keys := rfl
@[simp] theorem writeV_display (x : Reg) (b : Byte) (s : State) : (writeV x b s).display = s.display := rfl
@[simp] theorem writeV_dirty (x : Reg) (b : Byte) (s : State) : (writeV x b s).dirty = s.dirty := rfl
@[simp] theorem writeV_mode (x : Reg) (b : Byte) (s : State) : (writeV x b s).mode = s.mode := rfl
@[simp] theorem writeV_fault (x : Reg) (b : Byte) (s : State) : (writeV x b s).fault = s.fault := rfl
@[simp] theorem writeV_host (x : Reg) (b : Byte) (s : State) : (writeV x b s).host = s.host := rfl

@[simp] theorem setFlag_mem (f : Byte) (s : State) : (setFlag f s).mem = s.mem := rfl
@[simp] theorem setFlag_v (f : Byte) (s : State) : (setFlag f s).v = s.v.set vf.val f := rfl
@[simp] theorem setFlag_i (f : Byte) (s : State) : (setFlag f s).i = s.i := rfl
@[simp] theorem setFlag_pc (f : Byte) (s : State) : (setFlag f s).pc = s.pc := rfl
@[simp] theorem setFlag_stack (f : Byte) (s : State) : (setFlag f s).stack = s.stack := rfl
@[simp] theorem setFlag_sp (f : Byte) (s : State) : (setFlag f s).sp = s.sp := rfl
@[simp] theorem setFlag_dt (f : Byte) (s : State) : (setFlag f s).dt = s.dt := rfl
@[simp] theorem setFlag_st (f : Byte) (s : State) : (setFlag f s).st = s.st := rfl
@[simp] theorem setFlag_lastTick (f : Byte) (s : State) : (setFlag f s).lastTick = s.lastTick := rfl
@[simp] theorem setFlag_keys (f : Byte) (s : State) : (setFlag f s).keys = s.keys := rfl
@[simp] theorem setFlag_display (f : Byte) (s : State) : (setFlag f s).display = s.display := rfl
@[simp] theorem setFlag_dirty (f : Byte) (s : State) : (setFlag f s).dirty = s.dirty := rfl
@[simp] theorem setFlag_mode (f : Byte) (s : State) : (setFlag f s).mode = s.mode := rfl
@[simp] theorem setFlag_fault (f : Byte) (s : State) : (setFlag f s).fault = s.fault := rfl
@[simp] theorem setFlag_host (f : Byte) (s : State) : (setFlag f s).host = s.host := rfl

@[simp] theorem raise_mem (c : FaultCause) (n : Nat) (s : State) : (raise c n s).mem = s.mem := rfl
@[simp] theorem raise_v (c : FaultCause) (n : Nat) (s : State) : (raise c n s).v = s.v := rfl
@[simp] theorem raise_i (c : FaultCause) (n : Nat) (s : State) : (raise c n s).i = s.i := rfl
@[simp] theorem raise_pc (c : FaultCause) (n : Nat) (s : State) : (raise c n s).pc = s.pc := rfl
@[simp] theorem raise_stack (c : FaultCause) (n : Nat) (s : State) : (raise c n s).stack = s.stack := rfl
@[simp] theorem raise_sp (c : FaultCause) (n : Nat) (s : State) : (raise c n s).sp = s.sp := rfl
@[simp] theorem raise_dt (c : FaultCause) (n : Nat) (s : State) : (raise c n s).dt = s.dt := rfl
@[simp] theorem raise_st (c : FaultCause) (n : Nat) (s : State) : (raise c n s).st = s.st := rfl
@[simp] theorem raise_lastTick (c : FaultCause) (n : Nat) (s : State) : (raise c n s).lastTick = s.lastTick := rfl
@[simp] theorem raise_keys (c : FaultCause) (n : Nat) (s : State) : (raise c n s).keys = s.keys := rfl
@[simp] theorem raise_display (c : FaultCause) (n : Nat) (s : State) : (raise c n s).display = s.display := rfl
@[simp] theorem raise_dirty (c : FaultCause) (n : Nat) (s : State) : (raise c n s).dirty = s.dirty := rfl
@[simp] theorem raise_mode (c : FaultCause) (n : Nat) (s : State) : (raise c n s).mode = .faulted := rfl
@[simp] theorem raise_fault (c : FaultCause) (n : Nat) (s : State) : (raise c n s).fault = ⟨c, s.pc, BitVec.ofNat 17 n⟩ := rfl
@[simp] theorem raise_host (c : FaultCause) (n : Nat) (s : State) : (raise c n s).host = s.host := rfl

@[simp] theorem timerUpdate_mem (n : Nat) (s : State) : (timerUpdate n s).mem = s.mem := rfl
@[simp] theorem timerUpdate_v (n : Nat) (s : State) : (timerUpdate n s).v = s.v := rfl
@[simp] theorem timerUpdate_i (n : Nat) (s : State) : (timerUpdate n s).i = s.i := rfl
@[simp] theorem timerUpdate_pc (n : Nat) (s : State) : (timerUpdate n s).pc = s.pc := rfl
@[simp] theorem timerUpdate_stack (n : Nat) (s : State) : (timerUpdate n s).stack = s.stack := rfl
@[simp] theorem timerUpdate_sp (n : Nat) (s : State) : (timerUpdate n s).sp = s.sp := rfl
@[simp] theorem timerUpdate_keys (n : Nat) (s : State) : (timerUpdate n s).keys = s.keys := rfl
@[simp] theorem timerUpdate_display (n : Nat) (s : State) : (timerUpdate n s).display = s.display := rfl
@[simp] theorem timerUpdate_dirty (n : Nat) (s : State) : (timerUpdate n s).dirty = s.dirty := rfl
@[simp] theorem timerUpdate_mode (n : Nat) (s : State) : (timerUpdate n s).mode = s.mode := rfl
@[simp] theorem timerUpdate_fault (n : Nat) (s : State) : (timerUpdate n s).fault = s.fault := rfl
@[simp] theorem timerUpdate_host (n : Nat) (s : State) : (timerUpdate n s).host = s.host := rfl

@[simp] theorem timerUpdate_dt (n : Nat) (s : State) :
    (timerUpdate n s).dt = if tickDue n s.lastTick then countDown s.dt else s.dt := rfl
@[simp] theorem timerUpdate_st (n : Nat) (s : State) :
    (timerUpdate n s).st = if tickDue n s.lastTick then countDown s.st else s.st := rfl
@[simp] theorem timerUpdate_lastTick (n : Nat) (s : State) :
    (timerUpdate n s).lastTick = if tickDue n s.lastTick then n else s.lastTick := rfl

/-! ### Register reads -/

theorem readV_eq (x : Reg) (s : State) : readV x s = s.v[x.val] := rfl

/-- A read after a write of a register. -/
@[simp] theorem readV_writeV (x k : Reg) (b : Byte) (s : State) :
    readV k (writeV x b s) = if k = x then b else readV k s := by
  simp only [readV_eq, writeV_v, Vector.getElem_set, Fin.ext_iff, eq_comm]

@[simp] theorem readV_setFlag (k : Reg) (f : Byte) (s : State) :
    readV k (setFlag f s) = if k = vf then f else readV k s := readV_writeV vf k f s

@[simp] theorem readV_setPc (k : Reg) (a : Word) (s : State) : readV k (setPc a s) = readV k s := rfl
@[simp] theorem readV_setI (k : Reg) (a : Word) (s : State) : readV k (setI a s) = readV k s := rfl
@[simp] theorem readV_setDt (k : Reg) (b : Byte) (s : State) : readV k (setDt b s) = readV k s := rfl
@[simp] theorem readV_setSt (k : Reg) (b : Byte) (s : State) : readV k (setSt b s) = readV k s := rfl
@[simp] theorem readV_setMem (k : Reg) (m : Memory) (s : State) : readV k (setMem m s) = readV k s := rfl
@[simp] theorem readV_setKeys (k : Reg) (ks : BitVec 16) (s : State) : readV k (setKeys ks s) = readV k s := rfl
@[simp] theorem readV_setMode (k : Reg) (m : Mode) (s : State) : readV k (setMode m s) = readV k s := rfl
@[simp] theorem readV_setDirty (k : Reg) (b : Bool) (s : State) : readV k (setDirty b s) = readV k s := rfl
@[simp] theorem readV_setDisplay (k : Reg) (d : Display) (s : State) : readV k (setDisplay d s) = readV k s := rfl
@[simp] theorem readV_setHost (k : Reg) (h : HostSide) (s : State) : readV k (setHost h s) = readV k s := rfl
@[simp] theorem readV_advance (k : Reg) (s : State) : readV k (advance s) = readV k s := rfl
@[simp] theorem readV_skipIf (k : Reg) (c : Bool) (s : State) : readV k (skipIf c s) = readV k s := rfl
@[simp] theorem readV_raise (k : Reg) (c : FaultCause) (n : Nat) (s : State) : readV k (raise c n s) = readV k s := rfl
@[simp] theorem readV_timerUpdate (k : Reg) (n : Nat) (s : State) : readV k (timerUpdate n s) = readV k s := rfl

end Sys2Proof.Machine
end

