-- ==== Sys2Proof/Laws/Ops.lean ====
section
/-! SUPPORT. One lemma for each shared operation that says everything it can do; a proof cites it instead of
unfolding the operation. -/

namespace Sys2Proof.Machine

open Sys2Proof.Safety

/-- Nothing changed but pc. -/
theorem Frame.refl (c : Changes) (s : State) : Frame c s s := by
  constructor <;> simp

/-- What fault entry does (R202, R203); the addresses of R201 fit in the record. -/
theorem raised_raise (c : FaultCause) {n : Nat} (h : n < 2 ^ 17) (s : State) : Raised c n s (raise c n s) where
  mode := rfl
  cause := rfl
  savedPc := rfl
  addr := by simpa using Nat.mod_eq_of_lt h
  pc := rfl
  frame := by constructor <;> simp

/-- What a pop can answer (R110). -/
theorem popReturn_cases (s : State) :
    (s.sp.val = 0 ∧ popReturn s = none) ∨
    ∃ n, ∃ h : n < 24, s.sp.val = n + 1 ∧
      popReturn s = some (s.stack[n], { s with sp := ⟨n, Nat.lt_succ_of_lt h⟩ }) := by
  obtain ⟨mem, v, i, pc, stack, ⟨sp, hsp⟩, dt, st, lt, keys, disp, dirty, mode, fault, host⟩ := s
  cases sp with
  | zero => exact .inl ⟨rfl, rfl⟩
  | succ n => exact .inr ⟨n, by omega, rfl, rfl⟩

/-- What a push can answer (R112). -/
theorem pushReturn_cases (a : Word) (s : State) :
    (s.sp.val = 24 ∧ pushReturn a s = none) ∨
    ∃ h : s.sp.val < 24,
      pushReturn a s = some { s with stack := s.stack.set s.sp.val a h, sp := ⟨s.sp.val + 1, by omega⟩ } := by
  have := s.sp.isLt
  by_cases h : s.sp.val < 24
  · right; exact ⟨h, by simp [pushReturn, h]⟩
  · left; exact ⟨by omega, by simp [pushReturn, h]⟩

/-- What the fetch can answer (R85). -/
theorem fetch_cases (s : State) :
    (s.pc.toNat ≤ 0xFFE ∧ fetch s = .ok (wordAtPc s)) ∨
    (s.pc.toNat = 0xFFF ∧ fetch s = .error 0x1000) ∨
    (0xFFF < s.pc.toNat ∧ fetch s = .error s.pc.toNat) := by
  unfold fetch
  by_cases h : 0xFFF < s.pc.toNat
  · exact .inr (.inr ⟨h, by simp [h]⟩)
  · by_cases h' : 0xFFF < s.pc.toNat + 1
    · exact .inr (.inl ⟨by omega, by simp [h, h']; omega⟩)
    · exact .inl ⟨by omega, by simp [h, h', wordAtPc]⟩

/-- What `Execute()` can do (R101): a fetch fault, the instruction the word decodes to, or a NOP. -/
theorem execute_cases (s : State) :
    (∃ a, fetch s = .error a ∧ execute s = .next (raise .fetchOutOfRange a s)) ∨
    (s.pc.toNat ≤ 0xFFE ∧ ∃ i, decodeWord (wordAtPc s) = some i ∧ execute s = exec i s) ∨
    (s.pc.toNat ≤ 0xFFE ∧ decodeWord (wordAtPc s) = none ∧ execute s = .next (advance s)) := by
  rcases fetch_cases s with ⟨hp, h⟩ | ⟨_, h⟩ | ⟨_, h⟩
  · cases hd : decodeWord (wordAtPc s) with
    | some i => exact .inr (.inl ⟨hp, i, rfl, by simp [execute, h, executeWord, hd]⟩)
    | none => exact .inr (.inr ⟨hp, rfl, by simp [execute, h, executeWord, hd, execNoRow, nop]⟩)
  · exact .inl ⟨_, h, by simp [execute, h]⟩
  · exact .inl ⟨_, h, by simp [execute, h]⟩

/-- What a store through I can answer: all bytes stored and pc advanced, or a fault with nothing written. -/
theorem storeAtI_cases (bs : List Byte) (s : State) :
    (∃ m, storeAtI bs s = .next (advance (setMem m s)) ∧ (∀ k < bs.length, s.i.toNat + k ≤ 0xFFF) ∧
      (∀ k, (h : k < bs.length) → readByte m (s.i.toNat + k) = bs[k]) ∧
      (∀ b, (b < s.i.toNat ∨ s.i.toNat + bs.length ≤ b) → readByte m b = readByte s.mem b) ∧
      (s.mem.wf → m.wf)) ∨
    ∃ k < bs.length, storeAtI bs s = .next (raise .writeOutOfRange (s.i.toNat + k) s) ∧
      0xFFF < s.i.toNat + k ∧ ∀ j < k, s.i.toNat + j ≤ 0xFFF := by
  rcases writeBytes_cases s.mem (effectiveAddr s 0) bs with ⟨m, h, hr⟩ | ⟨k, hk, h, hr⟩
  · left; exact ⟨m, by simp [storeAtI, h], by simpa [effectiveAddr] using hr⟩
  · right; exact ⟨k, hk, by simp only [storeAtI, h]; rfl, by simpa [effectiveAddr] using hr⟩

/-- Filling registers from number `k`: register `j` gets the byte at `j - k` if there is one. -/
theorem getElem_fillRegs (v : Vector Byte 16) (k : Nat) (bs : List Byte) (j : Nat) (hj : j < 16) :
    (fillRegs v k bs)[j] = if h : k ≤ j ∧ j - k < bs.length then bs[j - k]'h.2 else v[j] := by
  induction bs generalizing v k with
  | nil => simp [fillRegs]
  | cons b bs ih =>
    rw [fillRegs, ih]
    by_cases hkj : k = j
    · subst hkj
      simp
    · by_cases h : k + 1 ≤ j ∧ j - (k + 1) < bs.length
      · have h1 : j - k = (j - (k + 1)) + 1 := by omega
        rw [dif_pos h, dif_pos ⟨by omega, by simp; omega⟩]
        simp [h1]
      · rw [dif_neg h, dif_neg (by simp only [List.length_cons]; omega)]
        simp [hkj]

theorem length_regsUpTo (x : Reg) (s : State) : (regsUpTo x s).length = x.val + 1 := by
  simp [regsUpTo]

theorem getElem_regsUpTo (x : Reg) (s : State) (k : Nat) (h : k < (regsUpTo x s).length) :
    (regsUpTo x s)[k] = readV ⟨k, by rw [length_regsUpTo] at h; omega⟩ s := by
  simp [regsUpTo, readV]

/-- What one event can do to the mode (R215). -/
theorem applyEvent_mode (e : HostEvent) (s : State) :
    (applyEvent e s).mode = s.mode ∨
    ∃ k t, e = .deliverKey k ∧ s.mode = .awaitingKey t ∧ (applyEvent e s).mode = .running := by
  rcases hm : s.mode with _ | t | _
  · cases e <;> simp [applyEvent, hm, keyDown, keyUp, deliverKey, ackDisplay]
  · cases e <;> simp [applyEvent, hm, keyDown, keyUp, deliverKey, ackDisplay]
  · simp [applyEvent, hm]

/-- What the timer update does (R211). -/
theorem timerUpdate_cases (now : Nat) (s : State) :
    (tickDue now s.lastTick = false ∧ timerUpdate now s = s) ∨
    (tickDue now s.lastTick = true ∧
      timerUpdate now s = { s with dt := countDown s.dt, st := countDown s.st, lastTick := now }) := by
  cases h : tickDue now s.lastTick <;> simp [timerUpdate, h]

end Sys2Proof.Machine
end

