-- ==== Sys2Proof/Laws/Cycle.lean ====
section
/-! SUPPORT. What a step can do, said once: the host's move it takes, the phases of a cycle, the events, the loads. -/

namespace Sys2Proof.Machine

open Sys2Proof.Safety

/-- Phase 3 is the timer update unless Faulted (R100). -/
theorem phase3_eq (now : Nat) (s : State) : phase3 now s = if s.mode = .faulted then s else timerUpdate now s := by
  unfold phase3
  cases s.mode <;> simp

/-- Phase 3 leaves the mode alone. -/
@[simp] theorem phase3_mode (now : Nat) (s : State) : (phase3 now s).mode = s.mode := by
  rw [phase3_eq]; split <;> simp

theorem phases23_running {now : Nat} {s : State} (h : s.mode = .running) :
    phases23 now s = match execute s with
      | .next t => .next (phase3 now t)
      | .fault r => .fault r
      | .refused r => .refused r := by
  cases he : execute s <;> simp [phases23, h, he]

theorem phases23_idle {now : Nat} {s : State} (h : s.mode ≠ .running) :
    phases23 now s = .next (phase3 now s) := by
  unfold phases23
  cases hm : s.mode with
  | running => exact absurd hm h
  | awaitingKey _ => rfl
  | faulted => rfl

/-- While Faulted a cycle changes nothing (R204). -/
theorem coreCycle_faulted {events : List HostEvent} {now : Nat} {s : State} (h : s.mode = .faulted) :
    coreCycle events now s = .next s := by
  unfold coreCycle; rw [h]

theorem coreCycle_live {events : List HostEvent} {now : Nat} {s : State} (h : s.mode ≠ .faulted) :
    coreCycle events now s = phases23 now (applyEvents events s) := by
  unfold coreCycle
  cases hm : s.mode with
  | running => rfl
  | awaitingKey _ => rfl
  | faulted => exact absurd hm h

theorem cycleMove_ok {events : List HostEvent} {elapsed : Nat} {s : State} (h : s.host.image ≠ .rejected) :
    cycleMove events elapsed s =
      coreCycle events (s.host.clock + elapsed) (setHost (cycleCalled elapsed s.host) s) := by
  unfold cycleMove
  cases hi : s.host.image with
  | rejected => exact absurd hi h
  | notLoaded => rfl
  | loaded => rfl

/-- A cycle that answers a next state runs on an image that was not rejected. -/
theorem cycleMove_next {events : List HostEvent} {elapsed : Nat} {s t : State}
    (h : cycleMove events elapsed s = .next t) :
    coreCycle events (s.host.clock + elapsed) (setHost (cycleCalled elapsed s.host) s) = .next t := by
  by_cases hi : s.host.image = .rejected
  · unfold cycleMove at h; rw [hi] at h; cases h
  · rw [← h, cycleMove_ok hi]

/-! ### The host's moves, one by one: rewrite with these rather than let the unifier open the font table. -/

theorem runMove_cycle (events : List HostEvent) (elapsed : Nat) (s : State) :
    runMove (.cycle events elapsed) s = cycleMove events elapsed s := rfl

theorem runMove_reset (now : Nat) (s : State) : runMove (.reset now) s = .next (resetAt now s.host) := rfl

theorem runMove_loadFont (s : State) : runMove .loadFont s = loadFontMove s := rfl

theorem runMove_loadProgram (image : List Byte) (s : State) :
    runMove (.loadProgram image) s = loadProgramMove image s := rfl

theorem length_font : Config.font.length = 80 := by unfold Config.font; rfl

/-- A step takes the head of the schedule. -/
theorem step_of_schedule {s : State} {mv : HostMove} {rest : List HostMove} (h : s.host.schedule = mv :: rest) :
    step s = runMove mv (setHost { s.host with schedule := rest } s) := by
  unfold step takeMove nextMove afterMove; rw [h]

/-- Beyond the schedule a step is an idle cycle (log 2). -/
theorem step_of_empty {s : State} (h : s.host.schedule = []) :
    step s = runMove (.cycle [] (Config.idleElapsed s.host.idle))
      (setHost { s.host with schedule := [], idle := s.host.idle + 1 } s) := by
  unfold step takeMove nextMove afterMove; rw [h]

/-- A scheduled cycle that does not start Faulted is phase 1, then phases 2 and 3 (R100). -/
theorem step_cycle {s : State} {events : List HostEvent} {elapsed : Nat} {rest : List HostMove}
    (h : s.host.schedule = .cycle events elapsed :: rest) (hi : s.host.image ≠ .rejected)
    (hm : s.mode ≠ .faulted) :
    step s = phases23 (s.host.clock + elapsed) (applyEvents events (cycleStart s rest elapsed)) := by
  rw [step_of_schedule h]
  show cycleMove _ _ _ = _
  rw [cycleMove_ok (by simpa using hi), coreCycle_live (by simpa using hm)]
  rfl

/-- Without a delivery a key wait goes on (R215). -/
theorem applyEvents_awaiting {events : List HostEvent} {s : State} {r : Reg} (h : s.mode = .awaitingKey r)
    (hd : ∀ k, HostEvent.deliverKey k ∉ events) : (applyEvents events s).mode = .awaitingKey r := by
  induction events generalizing s with
  | nil => exact h
  | cons e es ih =>
    refine ih ?_ (fun k hk => hd k (List.mem_cons_of_mem _ hk))
    rcases applyEvent_mode e s with h1 | ⟨k, t, rfl, _, _⟩
    · rw [h1, h]
    · exact absurd (List.mem_cons_self ..) (hd k)

/-- What an image load does: only memory changes; inside the address space each byte lands. -/
theorem loadImage_eq (base : Nat) (image : List Byte) (s : State) :
    loadImage base image s = setMem (loadImage base image s).mem s := by
  unfold loadImage; split <;> rfl

theorem loadImage_bytes {base : Nat} {image : List Byte} {s : State} (h : base + image.length ≤ 4096) :
    (∀ k, (hk : k < image.length) → readByte (loadImage base image s).mem (base + k) = image[k]) ∧
    (∀ a, (a < base ∨ base + image.length ≤ a) → readByte (loadImage base image s).mem a = readByte s.mem a) ∧
    (s.mem.wf → (loadImage base image s).mem.wf) := by
  rcases writeBytes_cases s.mem base image with ⟨m, he, _, h1, h2, h3⟩ | ⟨k, hk, _, h1, _⟩
  · have : loadImage base image s = setMem m s := by unfold loadImage; rw [he]
    rw [this]; exact ⟨h1, h2, h3⟩
  · omega

/-- The font load's answer. -/
theorem loadFontMove_cases (s : State) :
    loadFontMove s = .refused .loadOutsideBoot ∨
    (s.host.started = false ∧ s.host.fontLoaded = false ∧
      loadFontMove s = .next (setHost { s.host with fontLoaded := true } (loadImage 0 Config.font s))) := by
  unfold loadFontMove
  cases h1 : s.host.started <;> cases h2 : s.host.fontLoaded <;> simp [loadFontTable]

/-- The program load's answer. -/
theorem loadProgramMove_cases (image : List Byte) (s : State) :
    loadProgramMove image s = .refused .loadOutsideBoot ∨
    (s.host.started = false ∧ s.host.image = .notLoaded ∧ image.length ≤ 3584 ∧
      loadProgramMove image s = .next (setHost { s.host with image := .loaded } (loadImage 0x200 image s))) ∨
    (s.host.started = false ∧ s.host.image = .notLoaded ∧ 3584 < image.length ∧
      loadProgramMove image s = .next (setHost { s.host with image := .rejected } s)) := by
  unfold loadProgramMove
  by_cases h1 : s.host.started = true
  · left; simp [h1]
  · by_cases h2 : s.host.image = .notLoaded
    · right
      rw [if_neg (by simp [h1, h2])]
      by_cases h3 : image.length ≤ 3584
      · left
        exact ⟨by simpa using h1, h2, h3, by simp only [loadProgramBytes, if_pos h3]⟩
      · right
        exact ⟨by simpa using h1, h2, by omega, by simp only [loadProgramBytes, if_neg h3]⟩
    · left; simp [h2]

end Sys2Proof.Machine
end

