-- ==== Sys2Proof/Laws/Encoding.lean ====
section
/-! SUPPORT. The formats of the encoder as numbers, and the fields the decoder takes from them. -/

namespace Sys2Proof

@[simp] theorem toNat_regField (x : Reg) : (regField x).toNat = x.val := rfl

@[simp] theorem toFin_regField (x : Reg) : (regField x).toFin = x := rfl

/-- Format NNN as the rules write it: op << 12 | nnn. -/
theorem toNat_wordNNN (op : Nibble) (nnn : Addr12) :
    (wordNNN op nnn).toNat = op.toNat <<< 12 ||| nnn.toNat := by
  exact BitVec.toNat_append ..

/-- Format XNN as the rules write it: op << 12 | x << 8 | nn. -/
theorem toNat_wordXNN (op : Nibble) (x : Reg) (nn : Byte) :
    (wordXNN op x nn).toNat = op.toNat <<< 12 ||| x.val <<< 8 ||| nn.toNat := by
  have h : (wordXNN op x nn).toNat = (op ++ regField x ++ nn : BitVec (4 + 4 + 8)).toNat := rfl
  rw [h]
  simp only [BitVec.toNat_append, toNat_regField, Nat.shiftLeft_or_distrib, ← Nat.shiftLeft_add]

/-- Formats XYS and XYN as the rules write them: op << 12 | x << 8 | y << 4 | n. -/
theorem toNat_wordXYN (op : Nibble) (x y : Reg) (n : Nibble) :
    (wordXYN op x y n).toNat = op.toNat <<< 12 ||| x.val <<< 8 ||| y.val <<< 4 ||| n.toNat := by
  have h : (wordXYN op x y n).toNat = (op ++ regField x ++ regField y ++ n : BitVec (4 + 4 + 4 + 4)).toNat := rfl
  rw [h]
  simp only [BitVec.toNat_append, toNat_regField, Nat.shiftLeft_or_distrib, ← Nat.shiftLeft_add]

/-! ### The fixed bits of a format, whatever its fields (R86) -/

theorem and_append {m n : Nat} (a c : BitVec m) (b d : BitVec n) :
    (a ++ b) &&& (c ++ d) = (a &&& c) ++ (b &&& d) := by
  ext i hi
  simp [BitVec.getElem_append]

theorem nibble_and_ones (op : Nibble) : op &&& 15#4 = op := by revert op; decide

theorem wordNNN_and (op : Nibble) (nnn : Addr12) : wordNNN op nnn &&& 0xF000 = wordNNN op 0 :=
  (and_append op 15#4 nnn 0#12).trans (by rw [nibble_and_ones, BitVec.and_zero]; rfl)

theorem wordXNN_and_op (op : Nibble) (x : Reg) (nn : Byte) : wordXNN op x nn &&& 0xF000 = wordXNN op 0 0 :=
  (and_append (op ++ regField x) (15#4 ++ 0#4) nn 0#8).trans
    (by rw [and_append, nibble_and_ones, BitVec.and_zero, BitVec.and_zero]; rfl)

theorem wordXNN_and (op : Nibble) (x : Reg) (nn : Byte) : wordXNN op x nn &&& 0xF0FF = wordXNN op 0 nn :=
  (and_append (op ++ regField x) (15#4 ++ 0#4) nn 255#8).trans
    (by rw [and_append, nibble_and_ones, BitVec.and_zero, show nn &&& 255#8 = nn from BitVec.and_allOnes]; rfl)

theorem wordXYN_and_op (op : Nibble) (x y : Reg) (n : Nibble) : wordXYN op x y n &&& 0xF000 = wordXYN op 0 0 0 :=
  (and_append (op ++ regField x ++ regField y) (15#4 ++ 0#4 ++ 0#4) n 0#4).trans
    (by rw [and_append, and_append, nibble_and_ones, BitVec.and_zero, BitVec.and_zero, BitVec.and_zero]; rfl)

theorem wordXYN_and (op : Nibble) (x y : Reg) (n : Nibble) : wordXYN op x y n &&& 0xF00F = wordXYN op 0 0 n :=
  (and_append (op ++ regField x ++ regField y) (15#4 ++ 0#4 ++ 0#4) n 15#4).trans
    (by rw [and_append, and_append, nibble_and_ones, nibble_and_ones, BitVec.and_zero, BitVec.and_zero]; rfl)

end Sys2Proof
end

