-- ==== Sys2Proof/Laws/PerInstr.lean ====
section
/-! SUPPORT. Per-instruction law FixedBits: the word of an instruction, whatever its fields, has the fixed bits of the
instruction's own row of the opcode map (spec/30_encoding.md R87, R88). -/

namespace Sys2Proof.Laws.FixedBits

/-- The place of an instruction's row in the opcode map. -/
def rowIndex : Instr → Nat
  | .cls => 0
  | .ret => 1
  | .sys _ => 2
  | .jp _ => 3
  | .call _ => 4
  | .seImm _ _ => 5
  | .sneImm _ _ => 6
  | .seReg _ _ => 7
  | .ldImm _ _ => 8
  | .addImm _ _ => 9
  | .ldReg _ _ => 10
  | .orReg _ _ => 11
  | .andReg _ _ => 12
  | .xorReg _ _ => 13
  | .addReg _ _ => 14
  | .subReg _ _ => 15
  | .shr _ _ => 16
  | .subnReg _ _ => 17
  | .shl _ _ => 18
  | .sneReg _ _ => 19
  | .ldI _ => 20
  | .jpV0 _ => 21
  | .rnd _ _ => 22
  | .drw _ _ _ => 23
  | .skp _ => 24
  | .sknp _ => 25
  | .ldVxDt _ => 26
  | .ldVxK _ => 27
  | .ldDtVx _ => 28
  | .ldStVx _ => 29
  | .addIVx _ => 30
  | .ldFVx _ => 31
  | .ldBVx _ => 32
  | .storeRegs _ => 33
  | .loadRegs _ => 34

/-- The encoded word fits the instruction's row. -/
def Statement (i : Instr) : Prop := ((rows[rowIndex i]?).any (·.fits (encode i))) = true

theorem cls : Statement (.cls) := by
  rfl

theorem ret : Statement (.ret) := by
  rfl

theorem sys (nnn : Addr12) : Statement (.sys nnn) := by
  exact beq_iff_eq.mpr ((wordNNN_and _ nnn).trans rfl)

theorem jp (nnn : Addr12) : Statement (.jp nnn) := by
  exact beq_iff_eq.mpr ((wordNNN_and _ nnn).trans rfl)

theorem call (nnn : Addr12) : Statement (.call nnn) := by
  exact beq_iff_eq.mpr ((wordNNN_and _ nnn).trans rfl)

theorem seImm (x : Reg) (nn : Byte) : Statement (.seImm x nn) := by
  exact beq_iff_eq.mpr ((wordXNN_and_op _ x nn).trans rfl)

theorem sneImm (x : Reg) (nn : Byte) : Statement (.sneImm x nn) := by
  exact beq_iff_eq.mpr ((wordXNN_and_op _ x nn).trans rfl)

theorem seReg (x : Reg) (y : Reg) : Statement (.seReg x y) := by
  exact beq_iff_eq.mpr ((wordXYN_and _ x y _).trans rfl)

theorem ldImm (x : Reg) (nn : Byte) : Statement (.ldImm x nn) := by
  exact beq_iff_eq.mpr ((wordXNN_and_op _ x nn).trans rfl)

theorem addImm (x : Reg) (nn : Byte) : Statement (.addImm x nn) := by
  exact beq_iff_eq.mpr ((wordXNN_and_op _ x nn).trans rfl)

theorem ldReg (x : Reg) (y : Reg) : Statement (.ldReg x y) := by
  exact beq_iff_eq.mpr ((wordXYN_and _ x y _).trans rfl)

theorem orReg (x : Reg) (y : Reg) : Statement (.orReg x y) := by
  exact beq_iff_eq.mpr ((wordXYN_and _ x y _).trans rfl)

theorem andReg (x : Reg) (y : Reg) : Statement (.andReg x y) := by
  exact beq_iff_eq.mpr ((wordXYN_and _ x y _).trans rfl)

theorem xorReg (x : Reg) (y : Reg) : Statement (.xorReg x y) := by
  exact beq_iff_eq.mpr ((wordXYN_and _ x y _).trans rfl)

theorem addReg (x : Reg) (y : Reg) : Statement (.addReg x y) := by
  exact beq_iff_eq.mpr ((wordXYN_and _ x y _).trans rfl)

theorem subReg (x : Reg) (y : Reg) : Statement (.subReg x y) := by
  exact beq_iff_eq.mpr ((wordXYN_and _ x y _).trans rfl)

theorem shr (x : Reg) (y : Reg) : Statement (.shr x y) := by
  exact beq_iff_eq.mpr ((wordXYN_and _ x y _).trans rfl)

theorem subnReg (x : Reg) (y : Reg) : Statement (.subnReg x y) := by
  exact beq_iff_eq.mpr ((wordXYN_and _ x y _).trans rfl)

theorem shl (x : Reg) (y : Reg) : Statement (.shl x y) := by
  exact beq_iff_eq.mpr ((wordXYN_and _ x y _).trans rfl)

theorem sneReg (x : Reg) (y : Reg) : Statement (.sneReg x y) := by
  exact beq_iff_eq.mpr ((wordXYN_and _ x y _).trans rfl)

theorem ldI (nnn : Addr12) : Statement (.ldI nnn) := by
  exact beq_iff_eq.mpr ((wordNNN_and _ nnn).trans rfl)

theorem jpV0 (nnn : Addr12) : Statement (.jpV0 nnn) := by
  exact beq_iff_eq.mpr ((wordNNN_and _ nnn).trans rfl)

theorem rnd (x : Reg) (nn : Byte) : Statement (.rnd x nn) := by
  exact beq_iff_eq.mpr ((wordXNN_and_op _ x nn).trans rfl)

theorem drw (x : Reg) (y : Reg) (n : Nibble) : Statement (.drw x y n) := by
  exact beq_iff_eq.mpr ((wordXYN_and_op _ x y n).trans rfl)

theorem skp (x : Reg) : Statement (.skp x) := by
  exact beq_iff_eq.mpr ((wordXNN_and _ x _).trans rfl)

theorem sknp (x : Reg) : Statement (.sknp x) := by
  exact beq_iff_eq.mpr ((wordXNN_and _ x _).trans rfl)

theorem ldVxDt (x : Reg) : Statement (.ldVxDt x) := by
  exact beq_iff_eq.mpr ((wordXNN_and _ x _).trans rfl)

theorem ldVxK (x : Reg) : Statement (.ldVxK x) := by
  exact beq_iff_eq.mpr ((wordXNN_and _ x _).trans rfl)

theorem ldDtVx (x : Reg) : Statement (.ldDtVx x) := by
  exact beq_iff_eq.mpr ((wordXNN_and _ x _).trans rfl)

theorem ldStVx (x : Reg) : Statement (.ldStVx x) := by
  exact beq_iff_eq.mpr ((wordXNN_and _ x _).trans rfl)

theorem addIVx (x : Reg) : Statement (.addIVx x) := by
  exact beq_iff_eq.mpr ((wordXNN_and _ x _).trans rfl)

theorem ldFVx (x : Reg) : Statement (.ldFVx x) := by
  exact beq_iff_eq.mpr ((wordXNN_and _ x _).trans rfl)

theorem ldBVx (x : Reg) : Statement (.ldBVx x) := by
  exact beq_iff_eq.mpr ((wordXNN_and _ x _).trans rfl)

theorem storeRegs (x : Reg) : Statement (.storeRegs x) := by
  exact beq_iff_eq.mpr ((wordXNN_and _ x _).trans rfl)

theorem loadRegs (x : Reg) : Statement (.loadRegs x) := by
  exact beq_iff_eq.mpr ((wordXNN_and _ x _).trans rfl)

end Sys2Proof.Laws.FixedBits
end

