-- ==== Sys2Proof/Tests/Slice0.lean ====
section
/-! SUPPORT. Tests: ill-formed instructions are refused; a word of every instruction, written out from the opcode map
(spec/30_encoding.md R87), decodes to it; small one-step tests whose results are the vectors of
spec/95_test_vectors.md (named T2.1 and so on); and a witness for the hypotheses of every obligation that has any. -/

namespace Sys2Proof.Tests

open Sys2Proof Sys2Proof.Machine Sys2Proof.Safety

/-! ### Builders -/

/-- The state after reset with these registers. -/
def regs (l : List (Reg × Byte)) : State := l.foldl (fun s p => writeV p.1 p.2 s) State.reset

/-- The same state at another pc. -/
def at_ (a : Word) (s : State) : State := setPc a s

/-- Bytes put in memory from an address on. -/
def bytesAt (a : Nat) (bs : List Byte) (s : State) : State := loadImage a bs s

/-- A read of the state after an outcome, if it is a next state. -/
def ofNext {α : Type} (r : Result) (f : State → α) : Option α :=
  match r with
  | .next t => some (f t)
  | .fault _ | .refused _ => none

/-- One step over a word placed at pc. -/
def after {α : Type} (w : Nat) (s : State) (f : State → α) : Option α := ofNext (step (s.withFetchWord 16 w)) f

/-- One step of a cycle with these events and time, over a word placed at pc. -/
def afterCycle {α : Type} (events : List HostEvent) (elapsed w : Nat) (s : State) (f : State → α) : Option α :=
  let t := s.withFetchWord 16 w
  ofNext (step (setHost { t.host with schedule := [.cycle events elapsed] } t)) f

/-- The host's next move. -/
def withMove (mv : HostMove) (s : State) : State := setHost { s.host with schedule := [mv] } s

/-- The pixels set in a row, by column. -/
def setIn (r : Fin 32) (t : State) : List Nat := ((List.finRange 64).filter fun c => pixel t r c).map (·.val)

/-- The fault record as the vectors write it: code, pc, address. -/
def faultOf (t : State) : Mode × Nat × Nat × Nat :=
  (t.mode, t.fault.cause.code.toNat, t.fault.pc.toNat, t.fault.addr.toNat)

/-! ### Well-formedness: the one check is on SYS (R87, R89 (a)) -/

theorem test_wf_refuses_cls_as_sys : (Instr.sys 0x0E0).wf = false := by decide
theorem test_wf_refuses_ret_as_sys : (Instr.sys 0x0EE).wf = false := by decide
theorem test_wf_admits_sys : (Instr.sys 0x000).wf = true ∧ (Instr.sys 0x0E1).wf = true := by decide

/-! ### Decoding: a word of each row of R87, written out from its pattern -/

theorem test_decode_cls : decodeWord 0x00E0 = some .cls := by decide
theorem test_decode_ret : decodeWord 0x00EE = some .ret := by decide
theorem test_decode_sys : decodeWord 0x0ABC = some (.sys 0xABC) := by decide
theorem test_decode_jp : decodeWord 0x1228 = some (.jp 0x228) := by decide
theorem test_decode_call : decodeWord 0x220E = some (.call 0x20E) := by decide
theorem test_decode_seImm : decodeWord 0x3342 = some (.seImm 3 0x42) := by decide
theorem test_decode_sneImm : decodeWord 0x4E01 = some (.sneImm 14 0x01) := by decide
theorem test_decode_seReg : decodeWord 0x5120 = some (.seReg 1 2) := by decide
theorem test_decode_ldImm : decodeWord 0x6A7B = some (.ldImm 10 0x7B) := by decide
theorem test_decode_addImm : decodeWord 0x7003 = some (.addImm 0 0x03) := by decide
theorem test_decode_ldReg : decodeWord 0x8120 = some (.ldReg 1 2) := by decide
theorem test_decode_orReg : decodeWord 0x8121 = some (.orReg 1 2) := by decide
theorem test_decode_andReg : decodeWord 0x8122 = some (.andReg 1 2) := by decide
theorem test_decode_xorReg : decodeWord 0x8123 = some (.xorReg 1 2) := by decide
theorem test_decode_addReg : decodeWord 0x8F14 = some (.addReg 15 1) := by decide
theorem test_decode_subReg : decodeWord 0x8125 = some (.subReg 1 2) := by decide
theorem test_decode_shr : decodeWord 0x81F6 = some (.shr 1 15) := by decide
theorem test_decode_subnReg : decodeWord 0x8127 = some (.subnReg 1 2) := by decide
theorem test_decode_shl : decodeWord 0x812E = some (.shl 1 2) := by decide
theorem test_decode_sneReg : decodeWord 0x9120 = some (.sneReg 1 2) := by decide
theorem test_decode_ldI : decodeWord 0xA300 = some (.ldI 0x300) := by decide
theorem test_decode_jpV0 : decodeWord 0xBF80 = some (.jpV0 0xF80) := by decide
theorem test_decode_rnd : decodeWord 0xC30F = some (.rnd 3 0x0F) := by decide
theorem test_decode_drw : decodeWord 0xD015 = some (.drw 0 1 5) := by decide
theorem test_decode_skp : decodeWord 0xE29E = some (.skp 2) := by decide
theorem test_decode_sknp : decodeWord 0xE2A1 = some (.sknp 2) := by decide
theorem test_decode_ldVxDt : decodeWord 0xF107 = some (.ldVxDt 1) := by decide
theorem test_decode_ldVxK : decodeWord 0xF30A = some (.ldVxK 3) := by decide
theorem test_decode_ldDtVx : decodeWord 0xF115 = some (.ldDtVx 1) := by decide
theorem test_decode_ldStVx : decodeWord 0xF118 = some (.ldStVx 1) := by decide
theorem test_decode_addIVx : decodeWord 0xF21E = some (.addIVx 2) := by decide
theorem test_decode_ldFVx : decodeWord 0xF429 = some (.ldFVx 4) := by decide
theorem test_decode_ldBVx : decodeWord 0xF533 = some (.ldBVx 5) := by decide
theorem test_decode_storeRegs : decodeWord 0xF255 = some (.storeRegs 2) := by decide
theorem test_decode_loadRegs : decodeWord 0xF265 = some (.loadRegs 2) := by decide

/-- A fixed nibble must match exactly (R88). -/
theorem test_decode_none : decodeWord 0x5121 = none ∧ decodeWord 0xE09F = none ∧ decodeWord 0x8128 = none ∧
    decodeWord 0x912F = none ∧ decodeWord 0xF166 = none := by decide

/-- The rejections of the decoder by name. -/
theorem test_decode_rejects : decode [0x51] = .error .truncated ∧ decode [0x51, 0x21] = .error (.noRow 0x5121) := by
  decide

/-! ### One step of each instruction: T2, control flow -/

/-- R103's example. -/
theorem test_sys_advances : after 0x0000 (at_ 0x204 State.reset) (·.pc) = some 0x206 := by decide
theorem test_noRow_advances : after 0x5121 State.reset (·.pc) = some 0x202 := by decide
/-- R110's example. -/
theorem test_ret_pops : after 0x00EE (at_ 0x210 { State.reset with sp := 1, stack := State.reset.stack.set 0 0x20A })
    (fun t => (t.pc, t.sp, t.stack[0])) = some (0x20A, 0, 0x20A) := by decide
/-- T2.9. -/
theorem test_ret_underflow : after 0x00EE State.reset (fun t => (faultOf t, t.sp, t.pc)) =
    some ((.faulted, 2, 0x200, 0), 0, 0x200) := by decide
/-- R111's example. -/
theorem test_jp : after 0x1228 State.reset (·.pc) = some 0x228 := by decide
/-- R112's example. -/
theorem test_call_pushes : after 0x220E (at_ 0x208 State.reset) (fun t => (t.pc, t.sp, t.stack[0])) =
    some (0x20E, 1, 0x20A) := by decide
/-- P5's last step: the 25th call. -/
theorem test_call_overflow : after 0x2200 { State.reset with sp := 24 } (fun t => (faultOf t, t.sp, t.pc)) =
    some ((.faulted, 1, 0x200, 0), 24, 0x200) := by decide
/-- T2.11, T2.12. -/
theorem test_seImm : after 0x3342 (regs [(3, 0x42)]) (·.pc) = some 0x204 ∧
    after 0x3343 (regs [(3, 0x42)]) (·.pc) = some 0x202 := by decide
/-- T2.13, T2.14. -/
theorem test_sneImm : after 0x4342 (regs [(3, 0x42)]) (·.pc) = some 0x202 ∧
    after 0x4300 (regs [(3, 0x42)]) (·.pc) = some 0x204 := by decide
/-- T2.15, T2.16. -/
theorem test_seReg : after 0x5120 (at_ 0x300 (regs [(1, 7), (2, 7)])) (·.pc) = some 0x304 ∧
    after 0x5120 (at_ 0x300 (regs [(1, 7), (2, 8)])) (·.pc) = some 0x302 := by decide
/-- T2.18, T2.19. -/
theorem test_sneReg : after 0x9120 (at_ 0x300 (regs [(1, 7), (2, 8)])) (·.pc) = some 0x304 ∧
    after 0x9550 (at_ 0x300 State.reset) (·.pc) = some 0x302 := by decide
/-- T2.21, T2.25. -/
theorem test_jpV0 : after 0xB300 (regs [(0, 4)]) (·.pc) = some 0x304 ∧
    after 0xB100 (regs [(0, 5), (1, 0x40)]) (·.pc) = some 0x105 := by decide
/-- T2.22. -/
theorem test_jpV0_not_reduced : after 0xBFFF (regs [(0, 0xFF)]) (·.pc) = some 0x10FE := by decide

/-! ### T3, the ALU -/

/-- T3.1. -/
theorem test_ldImm : after 0x6FAB State.reset (fun t => (readV 15 t, t.pc)) = some (0xAB, 0x202) := by decide
/-- T3.2, T3.3. -/
theorem test_addImm_wraps : after 0x7001 (regs [(0, 0xFF), (15, 0x55)]) (fun t => (readV 0 t, readV 15 t)) =
    some (0x00, 0x55) ∧ after 0x7F01 (regs [(15, 0xFF)]) (readV 15) = some 0 := by decide
/-- T3.4. -/
theorem test_ldReg : after 0x8120 (regs [(2, 0x9C)]) (readV 1) = some 0x9C := by decide
/-- T3.5. -/
theorem test_orReg : after 0x8121 (regs [(1, 0xF0), (2, 0x0F), (15, 0x55)]) (fun t => (readV 1 t, readV 15 t)) =
    some (0xFF, 0x55) := by decide
/-- T3.6. -/
theorem test_andReg : after 0x8122 (regs [(1, 0xF3), (2, 0x3F), (15, 0x55)]) (fun t => (readV 1 t, readV 15 t)) =
    some (0x33, 0x55) := by decide
/-- T3.7. -/
theorem test_xorReg : after 0x8123 (regs [(1, 0xF3), (2, 0x3F), (15, 0x55)]) (fun t => (readV 1 t, readV 15 t)) =
    some (0xCC, 0x55) := by decide
/-- T3.9, T3.10. -/
theorem test_addReg_carry : after 0x8124 (regs [(1, 0xFF), (2, 0x01)]) (fun t => (readV 1 t, readV 15 t)) =
    some (0x00, 1) ∧ after 0x8124 (regs [(1, 0x80), (2, 0x7F)]) (fun t => (readV 1 t, readV 15 t)) = some (0xFF, 0) := by
  decide
/-- T3.12 (x = F), T3.14 (y = F). -/
theorem test_addReg_vf : after 0x8F14 (regs [(15, 0xFF), (1, 0x01)]) (readV 15) = some 1 ∧
    after 0x81F4 (regs [(1, 0x10), (15, 0xF0)]) (fun t => (readV 1 t, readV 15 t)) = some (0x00, 1) := by decide
/-- T3.15, T3.16, T3.17: strictly greater. -/
theorem test_subReg_strict : after 0x8125 (regs [(1, 0x30), (2, 0x10)]) (fun t => (readV 1 t, readV 15 t)) =
    some (0x20, 1) ∧ after 0x8125 (regs [(1, 0x10), (2, 0x10)]) (fun t => (readV 1 t, readV 15 t)) = some (0x00, 0) ∧
    after 0x8125 (regs [(1, 0x00), (2, 0x01)]) (fun t => (readV 1 t, readV 15 t)) = some (0xFF, 0) := by decide
/-- T3.18, T3.19 (x = F). -/
theorem test_subReg_vf : after 0x8F15 (regs [(15, 5), (1, 3)]) (readV 15) = some 1 ∧
    after 0x8F15 (regs [(15, 3), (1, 5)]) (readV 15) = some 0 := by decide
/-- T3.20, T3.21. -/
theorem test_subnReg : after 0x8127 (regs [(1, 0x10), (2, 0x30)]) (fun t => (readV 1 t, readV 15 t)) =
    some (0x20, 1) ∧ after 0x8127 (regs [(1, 0x10), (2, 0x00)]) (fun t => (readV 1 t, readV 15 t)) = some (0xF0, 0) := by
  decide
/-- T3.24 (y ignored), T3.26 (x = F). -/
theorem test_shr : after 0x81F6 (regs [(1, 0x04), (15, 0x55)]) (fun t => (readV 1 t, readV 15 t)) = some (0x02, 0) ∧
    after 0x8F06 (regs [(15, 0x05)]) (readV 15) = some 0x02 := by decide
/-- T3.27, T3.30 (x = F). -/
theorem test_shl : after 0x812E (regs [(1, 0x81)]) (fun t => (readV 1 t, readV 15 t)) = some (0x02, 1) ∧
    after 0x8F0E (regs [(15, 0x81)]) (readV 15) = some 0x02 := by decide
/-- T3.31: the source's next byte is 0xA7. -/
theorem test_rnd : after 0xC30F (setHost { State.reset.host with randomBytes := [0xA7, 0x11] } State.reset)
    (fun t => (readV 3 t, t.host.randomBytes)) = some (0x07, [0x11]) := by decide

/-! ### T4, the address register, loads and stores -/

/-- T4.1. -/
theorem test_ldI : after 0xA300 State.reset (fun t => (t.i, t.pc)) = some (0x0300, 0x202) := by decide
/-- T4.3, T4.4. -/
theorem test_addIVx : after 0xF21E (setI 0x0FFF (regs [(2, 1), (15, 0x55)])) (fun t => (t.i, readV 15 t)) =
    some (0x1000, 0x55) ∧ after 0xF21E (setI 0xFFFF (regs [(2, 1)])) (·.i) = some 0x0000 := by decide
/-- T4.5, T4.7. -/
theorem test_ldFVx : after 0xF429 (regs [(4, 0x0A)]) (·.i) = some 0x0032 ∧
    after 0xF429 (regs [(4, 0xFF)]) (·.i) = some 0x04FB := by decide
/-- T4.9. -/
theorem test_ldBVx : after 0xF533 (setI 0x300 (regs [(5, 0xFF)]))
    (fun t => (readByte t.mem 0x300, readByte t.mem 0x301, readByte t.mem 0x302, t.i)) = some (2, 5, 5, 0x300) := by decide
/-- T4.12. -/
theorem test_ldBVx_fault : after 0xF533 (setI 0xFFE (regs [(5, 9)]))
    (fun t => (faultOf t, readByte t.mem 0xFFE, readByte t.mem 0xFFF)) = some ((.faulted, 5, 0x200, 0x1000), 0, 0) := by
  decide
/-- T4.13. -/
theorem test_storeRegs : after 0xF255 (setI 0x400 (regs [(0, 0x11), (1, 0x22), (2, 0x33)]))
    (fun t => (readByte t.mem 0x400, readByte t.mem 0x401, readByte t.mem 0x402, t.i)) =
    some (0x11, 0x22, 0x33, 0x400) := by decide
/-- T4.17. -/
theorem test_storeRegs_fault : after 0xF055 (setI 0x1005 State.reset) faultOf = some (.faulted, 5, 0x200, 0x1005) := by
  decide
/-- T4.18. -/
theorem test_loadRegs : after 0xF265 (setI 0x300 (bytesAt 0x300 [1, 2, 3] State.reset))
    (fun t => (readV 0 t, readV 1 t, readV 2 t, t.i)) = some (1, 2, 3, 0x300) := by decide
/-- T4.21. -/
theorem test_loadRegs_fault : after 0xFF65 (setI 0xFF8 (bytesAt 0xFF8 [7] State.reset)) (fun t => (faultOf t, readV 0 t)) =
    some ((.faulted, 4, 0x200, 0x1000), 0) := by decide

/-! ### T5, the display -/

/-- T5.1. -/
theorem test_cls : after 0x00E0 (setDisplay (State.reset.display.set 3 (State.reset.display[3].set 9 true)) State.reset)
    (fun t => (setIn 3 t, t.dirty)) = some ([], true) := by decide
/-- T5.5: clipped at the corner, glyph 0 at 0x000. -/
theorem test_drw_clips : after 0xD015 (bytesAt 0 [0xF0, 0x90, 0x90, 0x90, 0xF0] (regs [(0, 62), (1, 30), (15, 0x55)]))
    (fun t => (setIn 30 t, setIn 31 t, setIn 0 t, readV 15 t, t.dirty)) =
    some ([62, 63], [62], [], 0, true) := by decide
/-- Row 0 of T5.4: F0 under 20 gives D0, and VF = 1. -/
theorem test_drw_collides : after 0xD011 (bytesAt 0 [0x20] (setDisplay (State.reset.display.set 0
      (((((State.reset.display[0].set 0 true).set 1 true).set 2 true).set 3 true))) State.reset))
    (fun t => (setIn 0 t, readV 15 t, t.dirty)) = some ([0, 1, 3], 1, true) := by decide

/-! ### T6, keys and timers -/

/-- T6.7 (phase 1 comes first), T6.5. -/
theorem test_skp : afterCycle [.keyDown 15] 0 0xE29E (regs [(2, 0x0F)]) (fun t => (t.keys, t.pc)) =
    some (0x8000, 0x204) ∧ after 0xE29E (setKeys 0xFFFF (regs [(2, 0x10)])) (·.pc) = some 0x202 := by decide
/-- T6.3, T6.4. -/
theorem test_sknp : after 0xE2A1 (setKeys 0x0020 (regs [(2, 4)])) (·.pc) = some 0x204 ∧
    after 0xE2A1 (setKeys 0x0020 (regs [(2, 5)])) (·.pc) = some 0x202 := by decide
/-- T6.8. -/
theorem test_ldVxDt : after 0xF107 (setDt 0x3C State.reset) (readV 1) = some 0x3C := by decide
/-- T6.16. -/
theorem test_ldVxK : after 0xF30A (at_ 0x240 State.reset) (fun t => (t.mode, t.pc)) = some (.awaitingKey 3, 0x240) := by
  decide
/-- T6.19 and P6, cycle 4: the delivery ends the wait, and 7301 runs in the same cycle. -/
theorem test_deliverKey : ofNext (step (withMove (.cycle [.deliverKey 7] 3000)
      (bytesAt 0x202 [0x73, 0x01] (setMode (.awaitingKey 3) State.reset)))) (fun t => (readV 3 t, t.mode, t.pc)) =
    some (0x08, .running, 0x204) := by decide
/-- T6.11, T6.12. -/
theorem test_ldDtVx : afterCycle [] 16666667 0xF115 (regs [(1, 3)]) (·.dt) = some 2 ∧
    afterCycle [] 1 0xF115 (regs [(1, 3)]) (·.dt) = some 3 := by decide
/-- T6.10. -/
theorem test_ldStVx : after 0xF118 (regs [(1, 0x1E)]) (fun t => (t.st, soundOn t)) = some (0x1E, true) := by decide
/-- T6.15: at most one decrement an update. -/
theorem test_tick : afterCycle [] 1000000000 0x0000 (setDt 10 (setSt 3 State.reset)) (fun t => (t.dt, t.st, t.lastTick)) =
    some (9, 2, 1000000000) := by decide
/-- T6.25. -/
theorem test_faulted_frozen : ofNext (step (withMove (.cycle [.keyDown 1, .ackDisplay, .deliverKey 2] 1000000000)
      (setMode .faulted (setDirty true (setDt 5 State.reset))))) (fun t => (t.dt, t.dirty, t.keys, t.lastTick)) =
    some (5, true, 0, 0) := by decide

/-! ### Fetch and boot -/

/-- T2.23's next cycle; the end of R103's run through zeroed memory. -/
theorem test_fetch_faults : ofNext (execute (at_ 0xFFF State.reset)) faultOf = some (.faulted, 3, 0xFFF, 0x1000) ∧
    ofNext (execute (at_ 0x1000 State.reset)) faultOf = some (.faulted, 3, 0x1000, 0x1000) := by decide
/-- T7.1: reset at now = 500 from a Faulted state. -/
theorem test_reset : ofNext (step (withMove (.reset 500) (setMode .faulted (regs [(3, 8)]))))
    (fun t => (t.mode, readV 3 t, t.pc, t.lastTick)) = some (.running, 0, 0x200, 500) := by decide
/-- P1's bytes, loaded: they stand from 0x200, the first high (R55). -/
theorem test_load : ofNext (step (withMove (.loadProgram [0x60, 0x05, 0x70]) State.reset))
    (fun t => (readByte t.mem 0x200, readByte t.mem 0x201, readByte t.mem 0x202, wordAtPc t)) =
    some (0x60, 0x05, 0x70, 0x6005) := by decide
/-- T7.2: glyph A at 0x032, the last byte of glyph F, and the first byte behind the font. -/
theorem test_fontLoad : ofNext (step (withMove .loadFont State.reset))
    (fun t => (readByte t.mem 0x032, readByte t.mem 0x033, readByte t.mem 0x04F, readByte t.mem 0x050)) =
    some (0xF0, 0x90, 0x80, 0x00) := by decide +kernel
/-- Nothing placed: the first step from reset executes the word 0x0000 at 0x200, SYS, a NOP (log 15). -/
theorem test_first_step : ofNext (step (withMove (.cycle [] 0) State.reset)) (·.pc) = some 0x202 ∧
    decodeWord (wordAtPc State.reset) = some (.sys 0x000) := by decide
/-- The host's two probes on one word: decode, and the first step after reset. -/
theorem test_probe : decodeTableWord 16 0x6005 = some (.ldImm 0 5) ∧
    after 0x6005 State.reset (readV 0) = some 5 := by decide

/-! ### Witnesses: for each obligation with hypotheses, values that meet them, clause by clause, at boundaries -/

theorem witness_DecodeOfEncodeIsTheInstruction : (Instr.sys 0x0DF).wf = true ∧ (Instr.sys 0xFFF).wf = true ∧
    (Instr.drw 15 15 15).wf = true := by decide
theorem witness_EncodeOfDecodeIsTheWord : decodeWord 0x0000 = some (.sys 0x000) ∧
    decodeWord 0xFF65 = some (.loadRegs 15) := by decide
/-- One word of each class (b) to (f) of R89, and of (a). -/
theorem witness_UnmatchedWordsAreTheNoOpSpace : decodeWord 0x5FF1 = none ∧ decodeWord 0x900F = none ∧
    decodeWord 0x8008 = none ∧ decodeWord 0x8FFF = none ∧ decodeWord 0xEFFF = none ∧ decodeWord 0xFF00 = none ∧
    (opOf 0x00EF = 0 ∧ (0x00EF : Word) ≠ 0x00E0 ∧ (0x00EF : Word) ≠ 0x00EE) := by decide
theorem witness_RowsOverlapOnlyAtSys : ∃ r q, rows[0]? = some r ∧ rows[2]? = some q ∧ r.fits 0x00E0 = true ∧
    q.fits 0x00E0 = true := ⟨_, _, rfl, rfl, by decide, by decide⟩
theorem witness_NopOnlyAdvances : decodeWord 0x5121 = none ∧ 0xFFF ≤ (at_ 0xFFF State.reset).pc.toNat := by decide
/-- Depths 1 and 24, and an empty stack. -/
theorem witness_ReturnPopsOrUnderflows : ({ State.reset with sp := 1 } : State).sp.val = 0 + 1 ∧
    ({ State.reset with sp := 24 } : State).sp.val = 23 + 1 ∧ State.reset.sp.val = 0 := by decide
theorem witness_CallPushesOrOverflows : State.reset.sp.val < 24 ∧ ({ State.reset with sp := 23 } : State).sp.val < 24 ∧
    ({ State.reset with sp := 24 } : State).sp.val = 24 ∧ (at_ 0xFFE State.reset).pc.toNat ≤ 0xFFE := by decide
/-- 24 nested calls, the capacity, from an empty stack; and one from depth 23. -/
theorem witness_NestedCallsReturnBehindTheCall : List.replicate 24 (0x300 : Addr12) ≠ [] ∧
    State.reset.sp.val + (List.replicate 24 (0x300 : Addr12)).length ≤ 24 ∧
    ({ State.reset with sp := 23 } : State).sp.val + [(0x300 : Addr12)].length ≤ 24 := by decide
/-- A pc at which the next fetch faults, each way (every statement with `NextFetchFaults`). -/
theorem witness_NextFetchFaults : 0xFFF ≤ (at_ 0xFFF State.reset).pc.toNat ∧
    0xFFF ≤ (at_ 0x10FE State.reset).pc.toNat := by decide
theorem witness_SkipsOnImmediate : readV 3 (regs [(3, 0x42)]) = 0x42 ∧ readV 3 (regs [(3, 0x42)]) ≠ 0x43 := by decide
theorem witness_SkipsOnRegisters : readV 1 (regs [(1, 7), (2, 7)]) = readV 2 (regs [(1, 7), (2, 7)]) ∧
    readV 1 (regs [(1, 7), (2, 8)]) ≠ readV 2 (regs [(1, 7), (2, 8)]) := by decide
/-- The clauses for x other than F; and the two random sources. -/
theorem witness_flags : (14 : Reg) ≠ 15 := by decide
theorem witness_RandomByteIsMasked :
    ({ State.reset.host with randomBytes := [0xA7, 0x11] } : HostSide).randomBytes = 0xA7 :: [0x11] ∧
    State.reset.host.randomBytes = [] := by decide
/-- The last address that fits and the first that does not: T4.11, T4.12; then FX55 and FX65 likewise. -/
theorem witness_DecimalDigitsAreStored : (setI 0xFFD State.reset).i.toNat + 2 ≤ 0xFFF ∧
    0xFFF < (setI 0xFFE State.reset).i.toNat + 2 := by decide
theorem witness_RegistersAreStored : (setI 0xFF0 State.reset).i.toNat + (15 : Reg).val ≤ 0xFFF ∧
    0xFFF < (setI 0xFF1 State.reset).i.toNat + (15 : Reg).val ∧ (0 : Reg) ≤ 15 ∧ (15 : Reg) ≤ 15 := by decide
theorem witness_RegistersAreLoaded : (setI 0xFFF State.reset).i.toNat + (0 : Reg).val ≤ 0xFFF ∧
    0xFFF < (setI 0x1000 State.reset).i.toNat + (0 : Reg).val ∧ (0 : Reg) ≤ 0 := by decide

/-- A display with pixel (0, 2) set and glyph row 0x20 at address 0, drawn at (0, 0), hits it. -/
def hitState : State :=
  bytesAt 0 [0x20] (setDisplay (State.reset.display.set 0 (State.reset.display[0].set 2 true)) State.reset)

theorem witness_DrawXorsAndReportsCollision :
    (∀ k, k < (1 : Nibble).toNat → hitState.i.toNat + k ≤ 0xFFF) ∧
    (pixel hitState 0 2 = true ∧ SpriteToggles hitState 0 0 1 0 2) ∧
    (∀ r c, pixel State.reset r c = true → ¬ SpriteToggles State.reset 0 0 15 r c) ∧
    (∀ k, k < (2 : Nibble).toNat → (setI 0xFFE State.reset).i.toNat + k ≤ 0xFFF) := by
  refine ⟨by decide, ⟨by decide, by unfold SpriteToggles; decide⟩, fun r c h => ?_, by decide⟩
  simp [pixel, State.reset] at h
theorem witness_DrawFaultsBeforeDrawing : 0 < (2 : Nibble).toNat ∧
    0xFFF < (setI 0xFFF State.reset).i.toNat + (2 : Nibble).toNat - 1 := by decide
/-- A held key, a released one, and no key at all (Vx = 16). -/
theorem witness_SkipsOnKey :
    (∃ k : Key, (readV 2 (setKeys 0x8000 (regs [(2, 15)]))).toNat = k.val ∧
      (setKeys 0x8000 (regs [(2, 15)])).keys.getLsbD k.val = true) ∧
    (∀ k : Key, (readV 2 (setKeys 0x0020 (regs [(2, 4)]))).toNat = k.val →
      (setKeys 0x0020 (regs [(2, 4)])).keys.getLsbD k.val = false) ∧
    (∀ k : Key, (readV 2 (setKeys 0xFFFF (regs [(2, 16)]))).toNat = k.val →
      (setKeys 0xFFFF (regs [(2, 16)])).keys.getLsbD k.val = false) := by decide

/-- A state that awaits a key for V3, one that is Faulted. -/
def waiting : State := setMode (.awaitingKey 3) State.reset
def halted : State := raise .stackUnderflow 0 State.reset

theorem witness_TimersAreSet : State.reset.mode ≠ .faulted := by decide
theorem witness_KeyAndAckEvents : State.reset.mode ≠ .faulted ∧ waiting.mode ≠ .faulted ∧ halted.mode = .faulted := by
  decide
theorem witness_DeliverKeyEndsTheWait : waiting.mode = .awaitingKey 3 ∧ ∀ r, State.reset.mode ≠ .awaitingKey r := by
  decide
/-- A wait that ends by a delivery and one that ends by a reset. -/
theorem witness_KeyWaitEndsOnlyOnDelivery :
    (∃ t, step (withMove (.cycle [.deliverKey 7] 0) waiting) = .next t ∧ t.mode ≠ .awaitingKey 3) ∧
    (∃ t, step (withMove (.reset 0) waiting) = .next t ∧ t.mode ≠ .awaitingKey 3) ∧ waiting.mode = .awaitingKey 3 :=
  ⟨⟨_, rfl, by decide⟩, ⟨_, rfl, by decide⟩, rfl⟩
/-- 1/60 s is between 16666666 and 16666667 ns. -/
theorem witness_TimerUpdateTicksAtSixtyHertz :
    (60 : Int) * (((16666667 : Nat) : Int) - State.reset.lastTick) ≥ 1000000000 ∧
    (60 : Int) * (((16666666 : Nat) : Int) - State.reset.lastTick) < 1000000000 := by decide
theorem witness_TimersAreDecoupledFromInstructions : State.reset.mode ≠ .faulted ∧
    (∃ t, phases23 16666667 State.reset = .next t ∧ t.mode ≠ .faulted) ∧
    ∀ x, decodeWord (wordAtPc State.reset) ≠ some (.ldDtVx x) ∧ decodeWord (wordAtPc State.reset) ≠ some (.ldStVx x) :=
  ⟨by decide, ⟨_, rfl, by decide⟩, by decide⟩
theorem witness_ResetSetsEveryElement : (withMove (.reset 500) halted).host.schedule = .reset 500 :: [] := by decide
/-- A reset may supply a `now` below the last one (log 19). -/
theorem test_reset_may_supply_past_now :
    ofNext (step (withMove (.reset 3) (setHost { State.reset.host with clock := 500 } halted)))
      (fun t => (t.lastTick, t.host.clock)) = some (3, 3) := by decide
theorem witness_FontLoadWritesEightyBytes : (withMove .loadFont State.reset).host.schedule = .loadFont :: [] ∧
    (withMove .loadFont State.reset).host.started = false ∧ (withMove .loadFont State.reset).host.fontLoaded = false ∧
    (List.replicate 80 (0xFF : Byte)).length = 80 := ⟨rfl, rfl, rfl, by simp⟩

/-- A program load of `n` bytes, then a cycle. -/
def loading (n : Nat) : State :=
  setHost { State.reset.host with schedule := [.loadProgram (List.replicate n 0xFF), .cycle [] 0] } State.reset

/-- The longest image that fits, the empty one, and the shortest that is rejected. -/
theorem witness_ProgramLoadCopiesOrRejects (n : Nat) (_ : n = 0 ∨ n = 3584 ∨ n = 3585) :
    (loading n).host.schedule = .loadProgram (List.replicate n 0xFF) :: [.cycle [] 0] ∧
    (loading n).host.started = false ∧ (loading n).host.image = .notLoaded ∧
    (List.replicate 0 (0xFF : Byte)).length ≤ 3584 ∧ (List.replicate 3584 (0xFF : Byte)).length ≤ 3584 ∧
    3584 < (List.replicate 3585 (0xFF : Byte)).length := by
  simp only [List.length_replicate]
  exact ⟨rfl, rfl, rfl, by omega, by omega, by omega⟩
/-- A machine that has run a cycle, one that has been loaded, and one whose load was rejected (log 18). -/
theorem witness_LoadsOutsideBootAreRefused :
    (setHost { State.reset.host with schedule := [.loadFont], started := true } State.reset).host.schedule =
      .loadFont :: [] ∧
    (setHost { State.reset.host with schedule := [.loadFont], started := true } State.reset).host.started = true ∧
    (setHost { State.reset.host with schedule := [.loadFont], fontLoaded := true } State.reset).host.fontLoaded = true ∧
    (setHost { State.reset.host with schedule := [.loadProgram []], image := .loaded } State.reset).host.schedule =
      .loadProgram [] :: [] ∧
    (setHost { State.reset.host with schedule := [.loadProgram []], image := .loaded } State.reset).host.image ≠
      .notLoaded ∧
    (setHost { State.reset.host with schedule := [.loadProgram []], image := .rejected } State.reset).host.schedule =
      .loadProgram [] :: [] ∧
    (setHost { State.reset.host with schedule := [.loadProgram []], image := .rejected } State.reset).host.image ≠
      .notLoaded := by decide
theorem witness_FetchReadsTheWordOrFaults : (at_ 0xFFE State.reset).pc.toNat + 1 ≤ 0xFFF ∧
    (at_ 0xFFF State.reset).pc.toNat = 0xFFF ∧ 0xFFF < (at_ 0x1000 State.reset).pc.toNat := by decide

/-- A scheduled cycle at 0xFFE, over the word 0x6005 there. -/
def ready (w : Nat) : State := (at_ 0xFFE State.reset).withFetchWord 16 w

theorem witness_StepRunsTheDecodedInstruction :
    (ready 0x6005).host.schedule = .cycle [] 0 :: [] ∧ (ready 0x6005).host.image ≠ .rejected ∧
    (ready 0x6005).mode ≠ .faulted ∧ (applyEvents [] (cycleStart (ready 0x6005) [] 0)).mode = .running ∧
    (applyEvents [] (cycleStart (ready 0x6005) [] 0)).pc.toNat + 1 ≤ 0xFFF ∧
    decodeWord (wordAtPc (applyEvents [] (cycleStart (ready 0x6005) [] 0))) = some (.ldImm 0 5) ∧
    decode [readByte (cycleStart (ready 0x6005) [] 0).mem 0xFFE, readByte (cycleStart (ready 0x6005) [] 0).mem 0xFFF] =
      .ok (.ldImm 0 5, []) := by decide
/-- Its second clause: a scheduled cycle at 0xFFF, with an event. -/
theorem witness_StepRunsTheDecodedInstruction_fetchFault :
    (withMove (.cycle [.keyDown 1] 7) (at_ 0xFFF State.reset)).host.schedule = .cycle [.keyDown 1] 7 :: [] ∧
    (withMove (.cycle [.keyDown 1] 7) (at_ 0xFFF State.reset)).host.image ≠ .rejected ∧
    (withMove (.cycle [.keyDown 1] 7) (at_ 0xFFF State.reset)).mode ≠ .faulted ∧
    (applyEvents [.keyDown 1] (cycleStart (withMove (.cycle [.keyDown 1] 7) (at_ 0xFFF State.reset)) [] 7)).mode =
      .running ∧
    0xFFF ≤ (applyEvents [.keyDown 1]
      (cycleStart (withMove (.cycle [.keyDown 1] 7) (at_ 0xFFF State.reset)) [] 7)).pc.toNat := by decide
theorem witness_StepOverUnmatchedWordIsNop :
    (ready 0x5121).host.schedule = .cycle [] 0 :: [] ∧ (ready 0x5121).host.image ≠ .rejected ∧
    (ready 0x5121).mode ≠ .faulted ∧ (applyEvents [] (cycleStart (ready 0x5121) [] 0)).mode = .running ∧
    (applyEvents [] (cycleStart (ready 0x5121) [] 0)).pc.toNat + 1 ≤ 0xFFF ∧
    decodeWord (wordAtPc (applyEvents [] (cycleStart (ready 0x5121) [] 0))) = none := by decide
theorem witness_AwaitingCycleOnlyKeepsTime : waiting.mode ≠ .faulted ∧
    (applyEvents [.keyDown 7] waiting).mode = .awaitingKey 3 ∧ waiting.mode = .awaitingKey 3 ∧
    (∀ e ∈ [HostEvent.keyDown 7, .keyUp 7, .ackDisplay],
      (∃ k, e = .keyDown k ∨ e = .keyUp k) ∨ e = .ackDisplay) ∧ halted.mode = .faulted := by decide
theorem witness_FaultedUntilReset : halted.mode = .faulted ∧ (withMove (.cycle [.ackDisplay] 5) halted).mode = .faulted ∧
    (withMove (.cycle [.ackDisplay] 5) halted).host.schedule = .cycle [.ackDisplay] 5 :: [] ∧
    (withMove (.cycle [.ackDisplay] 5) halted).host.image ≠ .rejected ∧ (withMove (.reset 9) halted).mode = .faulted ∧
    ∃ t, step (withMove (.reset 9) halted) = .next t ∧ t.mode ≠ .faulted :=
  ⟨rfl, rfl, rfl, by decide, rfl, _, rfl, by decide⟩
theorem witness_ScheduledCycleIsTheCycle :
    ((withMove (.cycle [.keyDown 1] 7) State.reset).host.schedule = .cycle [.keyDown 1] 7 :: [] ∧
      (withMove (.cycle [.keyDown 1] 7) State.reset).host.image ≠ .rejected) ∧ halted.mode = .faulted ∧
    (waiting.mode ≠ .faulted ∧ (applyEvents [.keyDown 1] waiting).mode ≠ .running) ∧
    State.reset.mode ≠ .faulted ∧ (applyEvents [.keyDown 1] State.reset).mode = .running ∧
    ∃ t, execute (applyEvents [.keyDown 1] State.reset) = .next t :=
  ⟨by decide, rfl, by decide, by decide, rfl, _, rfl⟩
theorem witness_BeyondTheScheduleIsAnIdleCycle : State.reset.host.schedule = [] := rfl
theorem witness_PcAfterEveryInstruction : State.reset.mode ≠ .faulted ∧
    (∃ t, exec (.ldImm 15 5) State.reset = .next t ∧ t.mode ≠ .faulted) ∧
    (∃ t, exec .ret State.reset = .next t ∧ t.mode = .faulted) ∧ (∃ t, exec (.ldVxK 3) State.reset = .next t) ∧
    decodeWord 0x5121 = none ∧ ∃ t, executeWord 0x5121 State.reset = .next t :=
  ⟨by decide, ⟨_, rfl, by decide⟩, ⟨_, rfl, rfl⟩, ⟨_, rfl⟩, by decide, _, rfl⟩
theorem lowest_0xFFF_2 : LowestOutOfRange 0xFFF 2 0x1000 := ⟨⟨1, by omega, rfl⟩, by omega, fun _ _ _ => by omega⟩
theorem lowest_0xFFE_3 : LowestOutOfRange 0xFFE 3 0x1000 := ⟨⟨2, by omega, rfl⟩, by omega, fun _ _ _ => by omega⟩
/-- A fetch fault, a fault of a fetched instruction, and each row of the table of R201. -/
theorem witness_FaultsArePreciseAndFew :
    ((at_ 0xFFF State.reset).mode ≠ .faulted ∧ (∃ t, execute (at_ 0xFFF State.reset) = .next t) ∧
      ExecuteRaises (at_ 0xFFF State.reset) .fetchOutOfRange 0x1000) ∧
    ExecuteRaises (bytesAt 0x200 [0x00, 0xEE] State.reset) .stackUnderflow 0 ∧
    (State.reset.mode ≠ .faulted ∧ (∃ t, exec .ret State.reset = .next t) ∧
      Raises .ret State.reset .stackUnderflow 0) ∧
    Raises (.call 0x300) { State.reset with sp := 24 } .stackOverflow 0 ∧
    Raises (.drw 0 1 2) (setI 0xFFF State.reset) .readOutOfRange 0x1000 ∧
    Raises (.loadRegs 1) (setI 0xFFF State.reset) .readOutOfRange 0x1000 ∧
    Raises (.ldBVx 5) (setI 0xFFE State.reset) .writeOutOfRange 0x1000 ∧
    Raises (.storeRegs 1) (setI 0xFFF State.reset) .writeOutOfRange 0x1000 :=
  ⟨⟨by decide, ⟨_, rfl⟩, .inl (by decide)⟩, .inr ⟨by decide, .ret, by decide, rfl, rfl, rfl⟩,
    ⟨by decide, ⟨_, rfl⟩, rfl, rfl, rfl⟩, ⟨rfl, rfl, rfl⟩, ⟨rfl, lowest_0xFFF_2⟩, ⟨rfl, lowest_0xFFF_2⟩,
    ⟨rfl, lowest_0xFFE_3⟩, ⟨rfl, lowest_0xFFF_2⟩⟩
/-- Each clause: I, the stack, memory, the display, DT, ST, the mode, the random source. -/
theorem witness_OnlyTheNamedInstructionsWrite :
    (∃ t, exec (.ldI 5) State.reset = .next t ∧ t.i ≠ State.reset.i) ∧
    (∃ t, exec (.call 5) State.reset = .next t ∧ t.sp ≠ State.reset.sp) ∧
    (∃ t, exec (.ldBVx 5) (regs [(5, 9)]) = .next t ∧ readByte t.mem 2 ≠ readByte State.reset.mem 2) ∧
    (∃ t, exec .cls State.reset = .next t ∧ t.dirty ≠ State.reset.dirty) ∧
    (∃ t, exec (.ldDtVx 1) (regs [(1, 3)]) = .next t ∧ t.dt ≠ (regs [(1, 3)]).dt) ∧
    (∃ t, exec (.ldStVx 1) (regs [(1, 3)]) = .next t ∧ t.st ≠ (regs [(1, 3)]).st) ∧
    (∃ t, exec (.ldVxK 1) State.reset = .next t ∧ t.mode ≠ State.reset.mode) ∧
    ∃ t, exec (.rnd 1 0xFF) State.reset = .next t ∧ t.host ≠ State.reset.host :=
  ⟨⟨_, rfl, by decide⟩, ⟨_, rfl, by decide⟩, ⟨_, rfl, by decide⟩, ⟨_, rfl, by decide⟩, ⟨_, rfl, by decide⟩,
    ⟨_, rfl, by decide⟩, ⟨_, rfl, by decide⟩, ⟨_, rfl, by decide⟩⟩
theorem witness_VfChangesOnlyByFlagOrDestination :
    (∃ t, exec (.addReg 1 2) (regs [(1, 0xFF), (2, 1)]) = .next t ∧
      readV 15 t ≠ readV 15 (regs [(1, 0xFF), (2, 1)])) ∧
    ∃ t, exec (.ldImm 15 5) State.reset = .next t ∧ readV 15 t ≠ readV 15 State.reset :=
  ⟨⟨_, rfl, by decide⟩, _, rfl, by decide⟩
theorem witness_HostSideInfluencesOnlyRnd : (∀ x nn, Instr.cls ≠ .rnd x nn) ∧
    ∃ t, exec .cls State.reset = .next t := ⟨nofun, _, rfl⟩
theorem witness_WriteChangesOnlyItsByte : Memory.wf State.reset.mem ∧ (0xFFF : Nat) ≠ 0xFFE ∧ 0xFFF ≤ 0xFFF :=
  ⟨wf_nil, by decide, by decide⟩
theorem witness_CanonicalMemoriesAreExtensional : Memory.wf [(0x200, 7)] ∧
    ∀ a, readByte [(0x200, 7)] a = readByte (writeByte [] 0x200 7) a := 
  ⟨by simp [Memory.wf, Config.memSize], fun a => by simp [eq_comm (a := a)]⟩
/-- The next instruction at 0xFFE, the last place: stores that begin below it, at it, and at its second byte. -/
theorem witness_StoredInstructionIsFetchedNext : (0xFFE : Nat) = ((at_ 0xFFC State.reset).pc + 2).toNat ∧
    (0xFFE : Nat) ≤ 0xFFE ∧ (setI 0xFFD (at_ 0xFFC State.reset)).i.toNat + 2 ≤ 0xFFF ∧
    (setI 0xFF0 (at_ 0xFFC State.reset)).i.toNat + (15 : Reg).val ≤ 0xFFF ∧
    (setI 0xFFE (at_ 0xFFC State.reset)).i.toNat + (1 : Reg).val ≤ 0xFFF ∧
    (setI 0xFFF (at_ 0xFFC State.reset)).i.toNat + (0 : Reg).val ≤ 0xFFF := by decide
/-- FX55 from below: V2 and V3 are the next instruction; FX33 with its tens and ones there. -/
theorem test_store_into_next :
    ofNext (exec (.storeRegs 3) (setI 0x200 (regs [(0, 0xF3), (1, 0x55), (2, 0x60), (3, 0x05)]))) wordAtPc = some 0x6005 ∧
    ofNext (exec (.ldBVx 5) (setI 0x201 (regs [(5, 0x7B)]))) wordAtPc = some 0x0203 := by decide
theorem witness_OutputsShowTheState : waitingForKey waiting = true ∧ waitingForKey halted = false := by decide
theorem witness_PlacedWordRunsNext : (at_ 0xFFE State.reset).pc.toNat ≤ 0xFFE := by decide
theorem witness_StepKeepsTheInvariant : Invariant (withMove (.cycle [] 0) State.reset) ∧
    ∃ t, step (withMove (.cycle [] 0) State.reset) = .next t := by
  refine ⟨?_, _, rfl⟩
  constructor <;> first | exact wf_nil | simp [withMove, State.reset]

end Sys2Proof.Tests
end

section
/-! PROOFS. The boot loads (spec/20_memory.md): what an image load writes, what it leaves unchanged, and the font
load as the host's move. -/

namespace Sys2Proof.Machine

open Sys2Proof.Safety

/-- A write of memory that keeps every byte outside the named ones. -/
theorem setMem_frame {c : Changes} {m : Memory} {s : State}
    (hkeep : ∀ a, ¬ c.bytes a → readByte m a = readByte s.mem a) : Frame c s (setMem m s) := by
  constructor
  case bytes => exact hkeep
  all_goals simp

/-- Where the host's side may change, a frame does not depend on the host's side of its two states. -/
theorem Frame.of_setHost {c : Changes} {h h' : HostSide} {s t : State} (hc : c.host)
    (hf : Frame c (setHost h s) t) : Frame c s (setHost h' t) where
  regs := hf.regs
  bytes := hf.bytes
  index := hf.index
  stack := hf.stack
  dt := hf.dt
  st := hf.st
  display := hf.display
  mode := hf.mode
  fault := hf.fault
  host := (absurd hc ·)
  lastTick := hf.lastTick
  keys := hf.keys

@[simp] theorem loadImage_pc (base : Nat) (image : List Byte) (s : State) :
    (loadImage base image s).pc = s.pc := by
  rw [loadImage_eq, setMem_pc]

/-- Byte `j` of an image that fits lands `j` behind the base. -/
theorem readByte_loadImage {base : Nat} {image : List Byte} (s : State) (hfit : base + image.length ≤ 4096)
    {j : Nat} (hj : j < image.length) :
    some (readByte (loadImage base image s).mem (base + j)) = image[j]? := by
  obtain ⟨hread, -, -⟩ := loadImage_bytes (s := s) hfit
  rw [hread j hj, List.getElem?_eq_getElem hj]

/-- The load of an image that fits changes at most the bytes the image covers. -/
theorem loadImage_frame {base : Nat} {image : List Byte} {c : Changes} (s : State)
    (hfit : base + image.length ≤ 4096) (hc : ∀ a, base ≤ a → a < base + image.length → c.bytes a) :
    Frame c s (loadImage base image s) := by
  obtain ⟨-, hkeep, -⟩ := loadImage_bytes (s := s) hfit
  rw [loadImage_eq]
  refine setMem_frame fun a ha => hkeep a ?_
  by_contra hcovered
  exact ha (hc a (by omega) (by omega))

/-- FONT_BASE is 0 (R7, R58). -/
theorem loadFontTable_eq (table : List Byte) (s : State) : loadFontTable table s = loadImage 0 table s := rfl

@[simp] theorem loadFontTable_pc (table : List Byte) (s : State) : (loadFontTable table s).pc = s.pc :=
  loadImage_pc ..

/-- Any 80 bytes loaded as the font lie at 0 to 79 (R58). -/
theorem readByte_loadFontTable {table : List Byte} (s : State) (hlen : table.length = 80) (j : Fin 80) :
    some (readByte (loadFontTable table s).mem j.val) = table[j.val]? := by
  have hread := readByte_loadImage (base := 0) (image := table) s (by omega) (j := j.val) (by omega)
  rwa [Nat.zero_add] at hread

/-- The load of any 80 bytes as the font changes at most the bytes 0 to 79 (R58). -/
theorem loadFontTable_frame {table : List Byte} {c : Changes} (s : State) (hlen : table.length = 80)
    (hc : ∀ a, a < 80 → c.bytes a) : Frame c s (loadFontTable table s) := by
  rw [loadFontTable_eq]
  exact loadImage_frame s (by omega) fun a _ ha => hc a (by omega)

/-- In the boot, before the font is loaded, the move loads it (R223, R225). -/
theorem loadFontMove_boot {s : State} (hstart : s.host.started = false) (hfont : s.host.fontLoaded = false) :
    loadFontMove s = .next (setHost { s.host with fontLoaded := true } (loadFontTable Config.font s)) := by
  simp [loadFontMove, hstart, hfont]

/-- Settles O38: the scheduled move is `loadFontMove`, whose one write outside the host's side is the load of an
80-byte table. -/
theorem fontLoadWritesEightyBytes : Obligations.FontLoadWritesEightyBytes := by
  refine ⟨length_font, fun s rest hsched hstart hfont => ?_, fun table s hlen =>
    ⟨readByte_loadFontTable s hlen, loadFontTable_pc .., loadFontTable_frame s hlen fun _ ha => ha⟩⟩
  rw [step_of_schedule hsched, runMove_loadFont, loadFontMove_boot (by simpa using hstart) (by simpa using hfont)]
  refine ⟨_, rfl, fun j => ?_, ?_, Frame.of_setHost trivial (loadFontTable_frame _ length_font fun _ ha => ha)⟩
  · rw [setHost_mem, readByte_loadFontTable _ length_font]
  · rw [setHost_pc, loadFontTable_pc, setHost_pc]

end Sys2Proof.Machine
end

section
/-! PROOFS. The fetch (spec/30_encoding.md R85): the word it reads, and the fault it raises, as `Execute()` passes
them on. -/

namespace Sys2Proof.Machine

open Sys2Proof.Safety

/-- The high byte counts 256 times (R55). -/
theorem toNat_wordOfBytes (hi lo : Byte) : (wordOfBytes hi lo).toNat = hi.toNat * 256 + lo.toNat := by
  rw [wordOfBytes, BitVec.toNat_append, ← Nat.shiftLeft_add_eq_or_of_lt lo.isLt, Nat.shiftLeft_eq]

/-- A fetched word is what `Execute()` applies (R101). -/
theorem execute_of_fetch_ok {s : State} {w : Word} (h : fetch s = .ok w) : execute s = executeWord w s := by
  rw [execute, h]

/-- A failed fetch raises FetchOutOfRange with the address it reports (R85, R202). -/
theorem execute_of_fetch_error {s : State} {a : Nat} (h : fetch s = .error a) (ha : a < 2 ^ 17) :
    ∃ t, execute s = .next t ∧ Raised .fetchOutOfRange a s t :=
  ⟨raise .fetchOutOfRange a s, by rw [execute, h], raised_raise _ ha s⟩

/-- Settles O41: `fetch_cases` gives one answer of the fetch for each of the three ranges of pc, and `Execute()`
passes that answer on. -/
theorem fetchReadsTheWordOrFaults : Obligations.FetchReadsTheWordOrFaults := by
  intro s
  rcases fetch_cases s with ⟨hpc, hfetch⟩ | ⟨hpc, hfetch⟩ | ⟨hpc, hfetch⟩
  · exact ⟨fun _ => ⟨wordAtPc s, hfetch, execute_of_fetch_ok hfetch, toNat_wordOfBytes ..⟩, by omega, by omega⟩
  · exact ⟨by omega, fun _ => ⟨hfetch, execute_of_fetch_error hfetch (by decide)⟩, by omega⟩
  · have hlt : s.pc.toNat < 2 ^ 17 := s.pc.isLt.trans (by decide)
    exact ⟨by omega, by omega, fun _ => ⟨hfetch, execute_of_fetch_error hfetch hlt⟩⟩

end Sys2Proof.Machine
end

section
/-! PROOFS. The rules of spec/40_cycle.md: NOP (R103), the pc after every instruction (R102), and the cycle that
executes nothing (R104). -/

namespace Sys2Proof.Machine

open Sys2Proof.Safety

/-! ### NOP (R103) -/

/-- A frame leaves pc to the statement, so a write of pc keeps it. -/
theorem setPc_frame {c : Changes} {s t : State} (h : Frame c s t) (a : Word) : Frame c s (setPc a t) where
  regs := h.regs
  bytes := h.bytes
  index := h.index
  stack := h.stack
  dt := h.dt
  st := h.st
  display := h.display
  mode := h.mode
  fault := h.fault
  host := h.host
  lastTick := h.lastTick
  keys := h.keys

/-- In every state a pc that leaves no room for a word makes the fetch fault (R85). -/
theorem nextFetchFaults (t : State) : NextFetchFaults t := by
  intro hpc
  rcases fetch_cases t with ⟨_, _⟩ | ⟨hp, hf⟩ | ⟨hp, hf⟩
  · omega
  · rw [hp]
    exact execute_of_fetch_error hf (by decide)
  · rw [max_eq_right hp]
    exact execute_of_fetch_error hf (t.pc.isLt.trans (by decide))

/-- The word of SYS is its field: op is 0 (R87). -/
theorem toNat_encode_sys (nnn : Addr12) : (encode (.sys nnn)).toNat = nnn.toNat := by
  rw [encode, toNat_wordNNN]
  simp

theorem exec_sys (nnn : Addr12) (s : State) : exec (.sys nnn) s = .next (advance s) := rfl

/-- A word without a row executes as NOP (R88, R103). -/
theorem executeWord_noRow {w : Word} (hw : decodeWord w = none) (s : State) :
    executeWord w s = .next (advance s) := by
  simp only [executeWord, hw, execNoRow, nop]

/-- What NOP promises of the state it leaves (R103). -/
theorem advance_only (s : State) :
    (advance s).pc = s.pc + 2 ∧ Frame {} s (advance s) ∧ NextFetchFaults (advance s) :=
  ⟨advance_pc s, setPc_frame (Frame.refl {} s) _, nextFetchFaults _⟩

/-- Settles O6: SYS and a word without a row both answer `advance s`. -/
theorem nopOnlyAdvances : Obligations.NopOnlyAdvances :=
  ⟨fun nnn s => ⟨toNat_encode_sys nnn, advance s, exec_sys nnn s, advance_only s⟩,
    fun _ s hw => ⟨advance s, executeWord_noRow hw s, advance_only s⟩⟩

/-! ### The pc after every instruction (R102) -/

/-- An execution from `s` either ends outside Faulted with pc at `a`, or Faulted with pc unmoved (R102, R202). -/
def EndsAt (s : State) (a : Word) (r : Result) : Prop :=
  ∃ t, r = .next t ∧ (t.mode ≠ .faulted ∧ t.pc = a ∨ t.mode = .faulted ∧ t.pc = s.pc)

theorem endsAt_raise (c : FaultCause) (n : Nat) (s : State) (a : Word) : EndsAt s a (.next (raise c n s)) :=
  ⟨_, rfl, .inr ⟨rfl, rfl⟩⟩

theorem endsAt_next {s t : State} {a : Word} (hmode : t.mode ≠ .faulted) (hpc : t.pc = a) :
    EndsAt s a (.next t) :=
  ⟨t, rfl, .inl ⟨hmode, hpc⟩⟩

theorem endsAt_advance {s t : State} (hmode : t.mode ≠ .faulted) (hpc : t.pc = s.pc) :
    EndsAt s (s.pc + 2) (.next (advance t)) :=
  endsAt_next hmode (by rw [advance_pc, hpc])

/-- A skip taken when `p` holds. -/
theorem endsAt_skipIf {s : State} {p : Prop} [Decidable p] {b : Bool} (hmode : s.mode ≠ .faulted)
    (hb : b = true ↔ p) : EndsAt s (if p then s.pc + 4 else s.pc + 2) (.next (skipIf b s)) :=
  endsAt_next hmode (by simp only [skipIf_pc, hb])

/-- A skip taken when `p` fails. -/
theorem endsAt_skipUnless {s : State} {p : Prop} [Decidable p] {b : Bool} (hmode : s.mode ≠ .faulted)
    (hb : b = true ↔ ¬ p) : EndsAt s (if p then s.pc + 2 else s.pc + 4) (.next (skipIf b s)) :=
  endsAt_next hmode (by simp only [skipIf_pc, hb, ite_not])

/-- A 12-bit address is widened without change (R84). -/
theorem widenAddr_eq_ofNat (nnn : Addr12) : widenAddr nnn = BitVec.ofNat 16 nnn.toNat :=
  (BitVec.ofNat_toNat ..).symm

theorem widenAddr_add_widenByte (nnn : Addr12) (b : Byte) :
    widenAddr nnn + widenByte b = BitVec.ofNat 16 (nnn.toNat + b.toNat) := by
  rw [BitVec.ofNat_add, BitVec.ofNat_toNat, BitVec.ofNat_toNat, widenAddr, widenByte]

theorem execRet_endsAt {s : State} (hs : s.mode ≠ .faulted) : EndsAt s (pcAfter .ret s) (execRet s) := by
  rcases popReturn_cases s with ⟨_, hpop⟩ | ⟨n, hn, hsp, hpop⟩ <;> simp only [execRet, hpop]
  · exact endsAt_raise ..
  · exact endsAt_next hs (by simp [pcAfter, hsp])

theorem execCall_endsAt (nnn : Addr12) {s : State} (hs : s.mode ≠ .faulted) :
    EndsAt s (pcAfter (.call nnn) s) (execCall nnn s) := by
  rcases pushReturn_cases (s.pc + 2) s with ⟨_, hpush⟩ | ⟨_, hpush⟩ <;> simp only [execCall, hpush]
  · exact endsAt_raise ..
  · exact endsAt_next hs (widenAddr_eq_ofNat nnn)

theorem storeAtI_endsAt (bs : List Byte) {s : State} (hs : s.mode ≠ .faulted) :
    EndsAt s (s.pc + 2) (storeAtI bs s) := by
  rcases storeAtI_cases bs s with ⟨m, hstore, -⟩ | ⟨k, -, hstore, -⟩ <;> rw [hstore]
  · exact endsAt_advance hs rfl
  · exact endsAt_raise ..

theorem execDrw_endsAt (x y : Reg) (n : Nibble) {s : State} (hs : s.mode ≠ .faulted) :
    EndsAt s (s.pc + 2) (execDrw x y n s) := by
  unfold execDrw
  split
  · exact endsAt_raise ..
  · exact endsAt_advance hs rfl

theorem execLoadRegs_endsAt (x : Reg) {s : State} (hs : s.mode ≠ .faulted) :
    EndsAt s (s.pc + 2) (execLoadRegs x s) := by
  unfold execLoadRegs
  split
  · exact endsAt_raise ..
  · exact endsAt_advance hs rfl

/-- Every instruction ends where the table of R102 says, or raises with pc unmoved; those not named here end with
`advance`. -/
theorem exec_endsAt (i : Instr) {s : State} (hs : s.mode ≠ .faulted) : EndsAt s (pcAfter i s) (exec i s) := by
  cases i with
  | jp nnn => exact endsAt_next hs (widenAddr_eq_ofNat nnn)
  | jpV0 nnn => exact endsAt_next hs (widenAddr_add_widenByte nnn _)
  | ret => exact execRet_endsAt hs
  | call nnn => exact execCall_endsAt nnn hs
  | seImm | seReg => exact endsAt_skipIf hs beq_iff_eq
  | sneImm | sneReg => exact endsAt_skipUnless hs bne_iff_ne
  | skp => exact endsAt_skipIf hs Iff.rfl
  | sknp => exact endsAt_skipUnless hs (by simp)
  | ldVxK => exact endsAt_next (by simp) rfl
  | drw x y n => exact execDrw_endsAt x y n hs
  | loadRegs x => exact execLoadRegs_endsAt x hs
  | ldBVx | storeRegs => exact storeAtI_endsAt _ hs
  | _ => exact endsAt_advance hs rfl

/-- A key delivered to a waiting machine moves pc behind the FX0A (R216). -/
theorem applyEvent_deliverKey_pc {s : State} {r : Reg} (h : s.mode = .awaitingKey r) (k : Key) :
    (applyEvent (.deliverKey k) s).pc = s.pc + 2 := by
  simp [applyEvent, deliverKey, h]

/-- Settles O48: `exec_endsAt` for the instructions; FX0A begins a wait, and a word without a row is a NOP. -/
theorem pcAfterEveryInstruction : Obligations.PcAfterEveryInstruction := by
  refine ⟨fun i s t hs ht => ?_, fun x k s t ht => ?_, fun w s t hw ht => ?_⟩
  · obtain ⟨u, hu, hend⟩ := exec_endsAt i hs
    cases hu.symm.trans ht
    rcases hend with ⟨hmode, hpc⟩ | ⟨hmode, hpc⟩
    · exact ⟨fun _ => hpc, (absurd · hmode)⟩
    · exact ⟨(absurd hmode ·), fun _ => hpc⟩
  · cases ht
    exact applyEvent_deliverKey_pc (setMode_mode ..) k
  · cases (executeWord_noRow hw s).symm.trans ht
    exact advance_pc s

/-! ### The cycle that executes nothing (R104) -/

/-- A cycle whose events leave a key awaited only updates the timers (R100, R104). -/
theorem coreCycle_awaiting {events : List HostEvent} {now : Nat} {r : Reg} {s : State} (hs : s.mode ≠ .faulted)
    (hwait : (applyEvents events s).mode = .awaitingKey r) :
    coreCycle events now s = .next (timerUpdate now (applyEvents events s)) := by
  rw [coreCycle_live hs, phases23_idle (by simp [hwait]), phase3_eq, if_neg (by simp [hwait])]

/-- Settles O44: the first clause is `coreCycle_awaiting`; no event of the second is a delivery. -/
theorem awaitingCycleOnlyKeepsTime : Obligations.AwaitingCycleOnlyKeepsTime := by
  refine ⟨?_, fun s events r hmode hev => applyEvents_awaiting hmode fun k hk => ?_,
    fun _ _ _ => coreCycle_faulted⟩
  · rintro s _ events now r hs rfl hwait
    exact coreCycle_awaiting hs hwait
  · simpa using hev _ hk

end Sys2Proof.Machine
end

section
/-! PROOFS. The control transfers of spec/41_control_flow.md: the jumps (R111, R117), the skips (R113 to R116), and
RET and CALL (R110, R112). -/

namespace Sys2Proof.Machine

open Sys2Proof.Safety

/-! ### Jumps (R111, R117) -/

/-- A write of pc changes nothing else, and the new pc may make the next fetch fault (R85). -/
theorem setPc_only (a : Word) (s : State) : Frame {} s (setPc a s) ∧ NextFetchFaults (setPc a s) :=
  ⟨setPc_frame (Frame.refl {} s) a, nextFetchFaults _⟩

theorem toNat_widenAddr (nnn : Addr12) : (widenAddr nnn).toNat = nnn.toNat :=
  BitVec.toNat_setWidth_of_le (by decide)

/-- The sum of BNNN is at most 0x10FE, so 16 bits hold it (R27, R117). -/
theorem toNat_widenAddr_add_widenByte (nnn : Addr12) (b : Byte) :
    (widenAddr nnn + widenByte b).toNat = nnn.toNat + b.toNat := by
  have hsum : nnn.toNat + b.toNat < 2 ^ 16 := by
    have := nnn.isLt
    have := b.isLt
    omega
  rw [widenAddr_add_widenByte, BitVec.toNat_ofNat, Nat.mod_eq_of_lt hsum]

/-- Settles O10: JP answers `setPc` of the widened address. -/
theorem jumpSetsThePc : Obligations.JumpSetsThePc := fun nnn s =>
  ⟨toNat_wordNNN 0x1 nnn, setPc (widenAddr nnn) s, rfl, toNat_widenAddr nnn, setPc_only _ s⟩

/-- Settles O13: JP V0 answers `setPc` of a sum that does not wrap. -/
theorem computedJumpAddsV0 : Obligations.ComputedJumpAddsV0 := fun nnn s =>
  ⟨toNat_wordNNN 0xB nnn, setPc (widenAddr nnn + widenByte (readV 0 s)) s, rfl,
    toNat_widenAddr_add_widenByte nnn _, setPc_only _ s⟩

/-! ### Skips (R113 to R116) -/

/-- Format XYS with its low nibble 0 (R86). -/
theorem toNat_wordXYN_zero (op : Nibble) (x y : Reg) :
    (wordXYN op x y 0).toNat = (op.toNat <<< 12 ||| x.val <<< 8 ||| y.val <<< 4) :=
  (toNat_wordXYN op x y 0).trans (Nat.or_zero _)

/-- An instruction that ends in a skip, taken when `p` holds and not taken when `q` does (D2). -/
theorem exec_skips {i : Instr} {s : State} {taken : Bool} {p q : Prop} (hexec : exec i s = .next (skipIf taken s))
    (hp : p → taken = true) (hq : q → taken = false) :
    ∃ t, exec i s = .next t ∧ Frame {} s t ∧ NextFetchFaults t ∧
      (p → t.pc = s.pc + 4) ∧ (q → t.pc = s.pc + 2) := by
  obtain ⟨hframe, hfetch⟩ := setPc_only (if taken then s.pc + 4 else s.pc + 2) s
  refine ⟨skipIf taken s, hexec, hframe, hfetch, fun h => ?_, fun h => ?_⟩
  · simp [hp h]
  · simp [hq h]

/-- Settles O11: SE skips on `==`, SNE on `!=`, of Vx and the immediate. -/
theorem skipsOnImmediate : Obligations.SkipsOnImmediate := fun x nn _ =>
  ⟨toNat_wordXNN 0x3 x nn, toNat_wordXNN 0x4 x nn,
    exec_skips rfl beq_iff_eq.mpr beq_eq_false_iff_ne.mpr,
    exec_skips rfl bne_iff_ne.mpr bne_eq_false_iff_eq.mpr⟩

/-- Settles O12: SE skips on `==`, SNE on `!=`, of Vx and Vy. -/
theorem skipsOnRegisters : Obligations.SkipsOnRegisters := fun x y _ =>
  ⟨toNat_wordXYN_zero 0x5 x y, toNat_wordXYN_zero 0x9 x y,
    exec_skips rfl beq_iff_eq.mpr beq_eq_false_iff_ne.mpr,
    exec_skips rfl bne_iff_ne.mpr bne_eq_false_iff_eq.mpr⟩

/-! ### RET and CALL (R110, R112) -/

/-- A write of the call stack changes nothing else. -/
theorem callStack_frame (stack : Vector Word 24) (sp : Fin 25) (s : State) :
    Frame { stack := True } s { s with stack := stack, sp := sp } := by
  constructor <;> simp [readV_eq]

/-- RET with an entry to pop (R110). -/
theorem exec_ret_pops {s : State} {n : Nat} (hn : n < 24) (hsp : s.sp.val = n + 1) :
    exec .ret s = .next (setPc s.stack[n] { s with sp := ⟨n, Nat.lt_succ_of_lt hn⟩ }) := by
  rcases popReturn_cases s with ⟨hempty, _⟩ | ⟨m, _, hm, hpop⟩
  · omega
  · obtain rfl : m = n := by omega
    simp only [exec, execRet, hpop]

/-- RET on an empty stack (R110). -/
theorem exec_ret_empty {s : State} (hsp : s.sp.val = 0) : exec .ret s = .next (raise .stackUnderflow 0 s) := by
  rcases popReturn_cases s with ⟨_, hpop⟩ | ⟨n, _, hn, _⟩
  · simp only [exec, execRet, hpop]
  · omega

/-- CALL with room for the return address (R112). -/
theorem exec_call_pushes (nnn : Addr12) {s : State} (hsp : s.sp.val < 24) :
    exec (.call nnn) s = .next (setPc (widenAddr nnn)
      { s with stack := s.stack.set s.sp.val (s.pc + 2) hsp, sp := ⟨s.sp.val + 1, Nat.succ_lt_succ hsp⟩ }) := by
  rcases pushReturn_cases (s.pc + 2) s with ⟨hfull, _⟩ | ⟨_, hpush⟩
  · omega
  · simp only [exec, execCall, hpush]

/-- CALL on a full stack (R112). -/
theorem exec_call_full (nnn : Addr12) {s : State} (hsp : s.sp.val = 24) :
    exec (.call nnn) s = .next (raise .stackOverflow 0 s) := by
  rcases pushReturn_cases (s.pc + 2) s with ⟨_, hpush⟩ | ⟨hroom, _⟩
  · simp only [exec, execCall, hpush]
  · omega

/-- A return address is at most 0x1000 when its CALL was fetched (R112, R85). -/
theorem toNat_add_two_le {a : Word} (ha : a.toNat ≤ 0xFFE) : (a + 2).toNat ≤ 0x1000 := by
  bv_omega

/-- Settles O7: `exec_ret_pops` moves SP and pc only, and `exec_ret_empty` raises. -/
theorem returnPopsOrUnderflows : Obligations.ReturnPopsOrUnderflows :=
  ⟨rfl,
    fun s _ hn hsp => ⟨_, exec_ret_pops hn hsp, rfl, rfl, rfl, setPc_frame (callStack_frame s.stack _ s) _,
      nextFetchFaults _⟩,
    fun s hsp => ⟨_, exec_ret_empty hsp, raised_raise _ (by decide) s⟩⟩

/-- Settles O8: `exec_call_pushes` writes entry SP of the stack, and `exec_call_full` raises. -/
theorem callPushesOrOverflows : Obligations.CallPushesOrOverflows := by
  refine ⟨toNat_wordNNN 0x2, fun nnn s hsp => ?_,
    fun nnn s hsp => ⟨_, exec_call_full nnn hsp, raised_raise _ (by decide) s⟩⟩
  have htop : (s.stack.set s.sp.val (s.pc + 2) hsp)[s.sp.val] = s.pc + 2 := Vector.getElem_set_self hsp
  refine ⟨_, exec_call_pushes nnn hsp, rfl, htop, fun hpc => ?_, fun k hk => ?_, toNat_widenAddr nnn,
    setPc_frame (callStack_frame _ _ s) _⟩
  · exact (congrArg BitVec.toNat htop).trans_le (toNat_add_two_le hpc)
  · exact Vector.getElem_set_ne hsp k.isLt hk.symm

end Sys2Proof.Machine
end

section
/-! PROOFS. The register loads and the ALU of spec/42_alu.md: the instructions that write Vx alone (R130 to R135), and
those that also write VF, after the result (R136, R137, R139) or before it (R138, R140). -/

namespace Sys2Proof.Machine

open Sys2Proof.Safety

/-! ### One register written (R130 to R135) -/

/-- A write of a register that may change keeps the frame. -/
theorem writeV_frame {c : Changes} {s t : State} {x : Reg} (h : Frame c s t) (hx : c.regs x) (b : Byte) :
    Frame c s (writeV x b t) where
  regs k hk := by
    have hkx : k ≠ x := fun hkx => hk (hkx.symm ▸ hx)
    rw [readV_writeV, if_neg hkx, h.regs k hk]
  bytes := h.bytes
  index := h.index
  stack := h.stack
  dt := h.dt
  st := h.st
  display := h.display
  mode := h.mode
  fault := h.fault
  host := h.host
  lastTick := h.lastTick
  keys := h.keys

theorem readV_writeV_self (x : Reg) (b : Byte) (s : State) : readV x (writeV x b s) = b := by
  rw [readV_writeV, if_pos rfl]

/-- What an instruction that writes Vx and advances promises. -/
theorem advance_writeV_only (x : Reg) (b : Byte) (s : State) :
    readV x (advance (writeV x b s)) = b ∧ (advance (writeV x b s)).pc = s.pc + 2 ∧
      Frame { regs := fun k => k = x } s (advance (writeV x b s)) :=
  ⟨readV_writeV_self x b s, rfl, setPc_frame (writeV_frame (Frame.refl _ s) rfl b) _⟩

/-- Settles O14: each of the three writes one value to Vx and advances; only the sum of ADD is computed. -/
theorem registerLoadsWriteOnlyVx : Obligations.RegisterLoadsWriteOnlyVx := by
  intro x y nn s
  obtain ⟨hsum, hpc, hframe⟩ := advance_writeV_only x (readV x s + nn) s
  refine ⟨toNat_wordXNN 0x6 x nn, toNat_wordXNN 0x7 x nn, toNat_wordXYN_zero 0x8 x y,
    ⟨_, rfl, advance_writeV_only x nn s⟩, ⟨_, rfl, ?_, hpc, hframe⟩, ⟨_, rfl, advance_writeV_only x (readV y s) s⟩⟩
  rw [hsum, BitVec.toNat_add]

/-- An instruction that writes to Vx the value whose bits are `op` of the bits of Vx and Vy. -/
theorem exec_bitwise {i : Instr} {x y : Reg} {s : State} {r : Byte} (op : Bool → Bool → Bool)
    (hexec : exec i s = .next (advance (writeV x r s)))
    (hr : ∀ b, r.getLsbD b = op ((readV x s).getLsbD b) ((readV y s).getLsbD b)) :
    ∃ t, exec i s = .next t ∧ t.pc = s.pc + 2 ∧ Frame { regs := fun k => k = x } s t ∧
      ∀ b : Fin 8, (readV x t).getLsbD b = op ((readV x s).getLsbD b) ((readV y s).getLsbD b) := by
  obtain ⟨hread, hpc, hframe⟩ := advance_writeV_only x r s
  exact ⟨_, hexec, hpc, hframe, fun b => by rw [hread, hr]⟩

/-- Settles O15: the library says what each bit of the three results is. -/
theorem bitwiseLogicKeepsVf : Obligations.BitwiseLogicKeepsVf := fun x y _ =>
  ⟨toNat_wordXYN 0x8 x y 0x1, toNat_wordXYN 0x8 x y 0x2, toNat_wordXYN 0x8 x y 0x3,
    exec_bitwise or rfl fun _ => BitVec.getLsbD_or,
    exec_bitwise and rfl fun _ => BitVec.getLsbD_and,
    exec_bitwise bne rfl fun _ => BitVec.getLsbD_xor⟩

/-! ### The flags as numbers (R136 to R140) -/

theorem toNat_flagByte (p : Prop) [Decidable p] : (flagByte (decide p)).toNat = if p then 1 else 0 := by
  by_cases h : p <;> simp [flagByte, h]

theorem toNat_carryFlag (a b : Byte) :
    (carryFlag a b).toNat = if a.toNat + b.toNat > 255 then 1 else 0 :=
  toNat_flagByte _

theorem toNat_greaterFlag (a b : Byte) : (greaterFlag a b).toNat = if a.toNat > b.toNat then 1 else 0 :=
  toNat_flagByte _

theorem toNat_lowBitFlag (a : Byte) : (lowBitFlag a).toNat = a.toNat % 2 :=
  (BitVec.toNat_and ..).trans (Nat.and_one_is_mod _)

theorem toNat_highBitFlag (a : Byte) : (highBitFlag a).toNat = a.toNat / 128 := by
  have hbit : (highBitFlag a).toNat = a.toNat / 128 % 2 := by
    rw [highBitFlag, BitVec.toNat_and, BitVec.toNat_ushiftRight, Nat.shiftRight_eq_div_pow]
    exact Nat.and_one_is_mod _
  have := a.isLt
  omega

/-! ### A result, then the flag (R136, R137, R139) -/

/-- The flag wins when x = F (D7). -/
theorem readV_vf_writeThenFlag (x : Reg) (r f : Byte) (s : State) : readV 15 (writeThenFlag x r f s) = f :=
  readV_writeV_self vf f _

theorem readV_writeThenFlag_of_ne {x : Reg} (hx : x ≠ 15) (r f : Byte) (s : State) :
    readV x (writeThenFlag x r f s) = r := by
  rw [writeThenFlag, readV_setFlag, if_neg (show x ≠ vf from hx), readV_writeV_self]

theorem writeThenFlag_frame (x : Reg) (r f : Byte) (s : State) :
    Frame { regs := fun k => k = x ∨ k = 15 } s (writeThenFlag x r f s) :=
  writeV_frame (writeV_frame (Frame.refl _ s) (Or.inl rfl) r) (Or.inr rfl) f

/-- What an instruction that ends with a result and then the flag promises. -/
theorem advance_writeThenFlag (x : Reg) (r f : Byte) (s : State) :
    (advance (writeThenFlag x r f s)).pc = s.pc + 2 ∧
      (x ≠ 15 → readV x (advance (writeThenFlag x r f s)) = r) ∧
      readV 15 (advance (writeThenFlag x r f s)) = f ∧
      Frame { regs := fun k => k = x ∨ k = 15 } s (advance (writeThenFlag x r f s)) :=
  ⟨rfl, fun hx => readV_writeThenFlag_of_ne hx r f s, readV_vf_writeThenFlag x r f s,
    setPc_frame (writeThenFlag_frame x r f s) _⟩

/-- Settles O16: the result is the wrapped sum and the flag the carry. -/
theorem addSetsCarry : Obligations.AddSetsCarry := by
  intro x y s
  obtain ⟨hpc, hres, hflag, hframe⟩ :=
    advance_writeThenFlag x (readV x s + readV y s) (carryFlag (readV x s) (readV y s)) s
  refine ⟨toNat_wordXYN 0x8 x y 0x4, _, rfl, hpc, fun hx => ?_, ?_, hframe⟩
  · rw [hres hx, BitVec.toNat_add]
  · rw [hflag, toNat_carryFlag]

/-- The difference of two bytes modulo 256, as the integers subtract. -/
theorem toNat_sub_eq_emod (a b : Byte) : ((a - b).toNat : Int) = (a.toNat - b.toNat : Int) % 256 := by
  bv_omega

/-- An instruction that subtracts `b` from `a` into Vx and then writes the strict comparison to VF. -/
theorem exec_subtracts {i : Instr} {x : Reg} {s : State} {a b : Byte}
    (hexec : exec i s = .next (advance (writeThenFlag x (a - b) (greaterFlag a b) s))) :
    ∃ t, exec i s = .next t ∧ t.pc = s.pc + 2 ∧
      (x ≠ 15 → ((readV x t).toNat : Int) = (a.toNat - b.toNat : Int) % 256) ∧
      (readV 15 t).toNat = (if a.toNat > b.toNat then 1 else 0) ∧
      Frame { regs := fun k => k = x ∨ k = 15 } s t := by
  obtain ⟨hpc, hres, hflag, hframe⟩ := advance_writeThenFlag x (a - b) (greaterFlag a b) s
  refine ⟨_, hexec, hpc, fun hx => ?_, ?_, hframe⟩
  · rw [hres hx, toNat_sub_eq_emod]
  · rw [hflag, toNat_greaterFlag]

/-- Settles O17: SUB and SUBN are one subtraction with the operands exchanged. -/
theorem subtractSetsStrictFlag : Obligations.SubtractSetsStrictFlag := fun x y _ =>
  ⟨toNat_wordXYN 0x8 x y 0x5, toNat_wordXYN 0x8 x y 0x7, exec_subtracts rfl, exec_subtracts rfl⟩

/-! ### The flag, then a result (R138, R140) -/

/-- The result wins when x = F (D7). -/
theorem readV_flagThenWrite (x : Reg) (r f : Byte) (s : State) : readV x (flagThenWrite x r f s) = r :=
  readV_writeV_self x r _

theorem readV_vf_flagThenWrite_of_ne {x : Reg} (hx : x ≠ 15) (r f : Byte) (s : State) :
    readV 15 (flagThenWrite x r f s) = f := by
  rw [flagThenWrite, readV_writeV, if_neg hx.symm]
  exact readV_writeV_self vf f s

theorem flagThenWrite_frame (x : Reg) (r f : Byte) (s : State) :
    Frame { regs := fun k => k = x ∨ k = 15 } s (flagThenWrite x r f s) :=
  writeV_frame (writeV_frame (Frame.refl _ s) (Or.inr rfl) f) (Or.inl rfl) r

/-- An instruction that writes the flag, of value `m`, and then the result, of value `n`. -/
theorem exec_flagThenWrite {i : Instr} {x : Reg} {s : State} {r f : Byte} {n m : Nat}
    (hexec : exec i s = .next (advance (flagThenWrite x r f s))) (hr : r.toNat = n) (hf : f.toNat = m) :
    ∃ t, exec i s = .next t ∧ t.pc = s.pc + 2 ∧ (readV x t).toNat = n ∧ (x ≠ 15 → (readV 15 t).toNat = m) ∧
      Frame { regs := fun k => k = x ∨ k = 15 } s t := by
  refine ⟨_, hexec, rfl, ?_, fun hx => ?_, setPc_frame (flagThenWrite_frame x r f s) _⟩
  · rw [readV_advance, readV_flagThenWrite, hr]
  · rw [readV_advance, readV_vf_flagThenWrite_of_ne hx, hf]

theorem toNat_ushiftRight_one (a : Byte) : (a >>> 1).toNat = a.toNat / 2 := by
  rw [BitVec.toNat_ushiftRight, Nat.shiftRight_eq_div_pow, pow_one]

theorem toNat_shiftLeft_one (a : Byte) : (a <<< 1).toNat = a.toNat * 2 % 256 := by
  rw [BitVec.toNat_shiftLeft, Nat.shiftLeft_eq, pow_one]

/-- Settles O18: both shifts read Vx, and the flag each writes is the bit shifted out of Vx. -/
theorem shiftsMoveOneBitOut : Obligations.ShiftsMoveOneBitOut := fun x y _ =>
  ⟨toNat_wordXYN 0x8 x y 0x6, toNat_wordXYN 0x8 x y 0xE,
    exec_flagThenWrite rfl (toNat_ushiftRight_one _) (toNat_lowBitFlag _),
    exec_flagThenWrite rfl (toNat_shiftLeft_one _) (toNat_highBitFlag _)⟩

end Sys2Proof.Machine
end

section
/-! PROOFS. The address register and the load/store unit of spec/43_load_store.md: the three writes of I (R150 to
R152), the stores of FX33 and FX55 (R153, R154), and the load of FX65 (R155). -/

namespace Sys2Proof.Machine

open Sys2Proof.Safety

/-- Format XNN with the fixed bits together, as R87 writes an instruction whose one field is x. -/
theorem toNat_wordXNN_fixed (op : Nibble) (x : Reg) (nn : Byte) :
    (wordXNN op x nn).toNat = (op.toNat <<< 12 ||| nn.toNat) ||| x.val <<< 8 := by
  rw [toNat_wordXNN, Nat.or_assoc, Nat.or_comm (x.val <<< 8), ← Nat.or_assoc]

/-! ### The address register (R150 to R152) -/

theorem setI_frame {c : Changes} (hc : c.index) (a : Word) (s : State) : Frame c s (setI a s) := by
  constructor
  case index => exact (absurd hc ·)
  all_goals simp

/-- What an instruction that writes a word of value `n` to I and advances promises. -/
theorem exec_setI {i : Instr} {s : State} {a : Word} {n : Nat} (hexec : exec i s = .next (advance (setI a s)))
    (ha : a.toNat = n) :
    ∃ t, exec i s = .next t ∧ t.i.toNat = n ∧ t.pc = s.pc + 2 ∧ Frame { index := True } s t :=
  ⟨_, hexec, ha, rfl, setPc_frame (setI_frame trivial a s) _⟩

theorem toNat_widenByte (b : Byte) : (widenByte b).toNat = b.toNat :=
  BitVec.toNat_setWidth_of_le (by decide)

theorem toNat_add_widenByte (a : Word) (b : Byte) : (a + widenByte b).toNat = (a.toNat + b.toNat) % 65536 := by
  rw [BitVec.toNat_add, toNat_widenByte]

/-- The glyph address of FX29 is at most 1275, so it does not wrap (R152). -/
theorem toNat_widenByte_mul_five (b : Byte) : (widenByte b * 5).toNat = b.toNat * 5 := by
  have hfit : b.toNat * 5 < 2 ^ 16 := by
    have := b.isLt
    omega
  rw [BitVec.toNat_mul, toNat_widenByte]
  exact Nat.mod_eq_of_lt hfit

/-- Settles O20: each of the three writes one word to I and advances. -/
theorem addressRegisterIsSet : Obligations.AddressRegisterIsSet :=
  ⟨fun nnn _ => ⟨toNat_wordNNN 0xA nnn, exec_setI rfl (toNat_widenAddr nnn)⟩,
    fun x _ => ⟨toNat_wordXNN_fixed 0xF x 0x1E, toNat_wordXNN_fixed 0xF x 0x29,
      exec_setI rfl (toNat_add_widenByte _ _), exec_setI rfl (toNat_widenByte_mul_five _)⟩⟩

/-! ### An access through I that leaves the address space (R201, R205) -/

/-- An access of at most 16 bytes from I that first leaves the address space at byte `k` raises that address. -/
theorem raised_at_lowest (c : FaultCause) {s : State} {n k : Nat} (hn : n ≤ 16) (hk : k < n)
    (hout : 0xFFF < s.i.toNat + k) (hlow : ∀ j < k, s.i.toNat + j ≤ 0xFFF) :
    LowestOutOfRange s.i.toNat n (s.i.toNat + k) ∧
      Raised c (s.i.toNat + k) s (raise c (s.i.toNat + k) s) := by
  refine ⟨⟨⟨k, hk, rfl⟩, hout, fun j _ hj => ?_⟩, raised_raise c ?_ s⟩
  · by_contra hlt
    have := hlow j (by omega)
    omega
  · have := s.i.isLt
    omega

/-! ### Stores (R153, R154) -/

/-- A store that fits in the address space puts its bytes at I and changes at most what it covers. -/
theorem storeAtI_fits {bs : List Byte} {c : Changes} {s : State} (hfit : s.i.toNat + bs.length ≤ 0x1000)
    (hc : ∀ a, s.i.toNat ≤ a → a < s.i.toNat + bs.length → c.bytes a) :
    ∃ t, storeAtI bs s = .next t ∧ t.pc = s.pc + 2 ∧
      (∀ k, (h : k < bs.length) → readByte t.mem (s.i.toNat + k) = bs[k]) ∧ Frame c s t := by
  rcases storeAtI_cases bs s with ⟨m, hstore, -, hread, hkeep, -⟩ | ⟨k, hk, -, hout, -⟩
  · refine ⟨_, hstore, rfl, hread, setPc_frame (setMem_frame fun a ha => hkeep a ?_) _⟩
    by_contra hcovered
    exact ha (hc a (by omega) (by omega))
  · omega

/-- A store that does not fit raises the lowest address above 0xFFF, with nothing written (R203). -/
theorem storeAtI_raises {bs : List Byte} {s : State} {k : Nat} (hlen : bs.length ≤ 16) (hk : k < bs.length)
    (hout : 0xFFF < s.i.toNat + k) :
    ∃ t a, storeAtI bs s = .next t ∧ LowestOutOfRange s.i.toNat bs.length a ∧ Raised .writeOutOfRange a s t := by
  rcases storeAtI_cases bs s with ⟨_, -, hin, -⟩ | ⟨j, hj, hstore, hjout, hlow⟩
  · exact absurd hout (hin k hk).not_gt
  · exact ⟨_, _, hstore, raised_at_lowest _ hlen hj hjout hlow⟩

theorem exec_ldBVx (x : Reg) (s : State) : exec (.ldBVx x) s = storeAtI (decimalDigits (readV x s)) s := rfl

theorem exec_storeRegs (x : Reg) (s : State) : exec (.storeRegs x) s = storeAtI (regsUpTo x s) s := rfl

@[simp] theorem length_decimalDigits (a : Byte) : (decimalDigits a).length = 3 := rfl

/-- Each digit is below 10, so its byte holds it (R153). -/
theorem toNat_decimalDigits (a : Byte) :
    (decimalDigits a)[0].toNat = a.toNat / 100 ∧ (decimalDigits a)[1].toNat = a.toNat / 10 % 10 ∧
      (decimalDigits a)[2].toNat = a.toNat % 10 := by
  have := a.isLt
  refine ⟨?_, ?_, ?_⟩ <;> exact Nat.mod_eq_of_lt (by omega)

/-- Settles O21: FX33 is a store of three bytes, each of them a digit. -/
theorem decimalDigitsAreStored : Obligations.DecimalDigitsAreStored := by
  intro x s
  have hlen := length_decimalDigits (readV x s)
  refine ⟨toNat_wordXNN_fixed 0xF x 0x33, fun hfit => ?_, fun hout => ?_⟩ <;> rw [exec_ldBVx]
  · obtain ⟨hhundreds, htens, hones⟩ := toNat_decimalDigits (readV x s)
    obtain ⟨t, hstore, hpc, hread, hframe⟩ :=
      storeAtI_fits (c := { bytes := fun a => s.i.toNat ≤ a ∧ a ≤ s.i.toNat + 2 }) (bs := decimalDigits (readV x s))
        (s := s) (by omega) fun a hlo hhi => ⟨hlo, by omega⟩
    exact ⟨t, hstore, hpc, (congrArg BitVec.toNat (hread 0 (by omega))).trans hhundreds,
      (congrArg BitVec.toNat (hread 1 (by omega))).trans htens,
      (congrArg BitVec.toNat (hread 2 (by omega))).trans hones, hframe⟩
  · exact storeAtI_raises (bs := decimalDigits (readV x s)) (by omega) (by omega) hout

/-- Settles O22: FX55 is a store of the x + 1 bytes V0 to Vx. -/
theorem registersAreStored : Obligations.RegistersAreStored := by
  intro x s
  have hlen := length_regsUpTo x s
  refine ⟨toNat_wordXNN_fixed 0xF x 0x55, fun hfit => ?_, fun hout => ?_⟩ <;> rw [exec_storeRegs]
  · obtain ⟨t, hstore, hpc, hread, hframe⟩ :=
      storeAtI_fits (c := { bytes := fun a => s.i.toNat ≤ a ∧ a ≤ s.i.toNat + x.val }) (bs := regsUpTo x s) (s := s)
        (by omega) fun a hlo hhi => ⟨hlo, by omega⟩
    refine ⟨t, hstore, hpc, fun k hk => ?_, hframe⟩
    rw [hread k.val (hlen ▸ Nat.lt_succ_of_le hk), getElem_regsUpTo]
  · rw [← hlen]
    exact storeAtI_raises (by omega) (by omega) hout

/-! ### The load (R155) -/

/-- The register file with V0 to Vx taken from memory at I. -/
def loadedRegs (x : Reg) (s : State) : Vector Byte 16 :=
  fillRegs s.v 0 ((List.range (x.val + 1)).map fun k => readByte s.mem (s.i.toNat + k))

theorem getElem_loadedRegs (x k : Reg) (s : State) :
    (loadedRegs x s)[k.val] = if k ≤ x then readByte s.mem (s.i.toNat + k.val) else readV k s := by
  rw [loadedRegs, getElem_fillRegs]
  by_cases hk : k ≤ x
  · simp [hk]
  · simp [hk, readV_eq]

/-- What FX65 can answer: the registers loaded and pc advanced, or a fault at the lowest address out of range. -/
theorem exec_loadRegs_cases (x : Reg) (s : State) :
    (exec (.loadRegs x) s = .next (advance (setRegs (loadedRegs x s) s)) ∧
      ∀ k < x.val + 1, s.i.toNat + k ≤ 0xFFF) ∨
    ∃ k < x.val + 1, exec (.loadRegs x) s = .next (raise .readOutOfRange (s.i.toNat + k) s) ∧
      0xFFF < s.i.toNat + k ∧ ∀ j < k, s.i.toNat + j ≤ 0xFFF := by
  have haddr : effectiveAddr s 0 = s.i.toNat := rfl
  rcases readBytes_cases s.mem s.i.toNat (x.val + 1) with ⟨hread, hin⟩ | ⟨k, hk, hread, hrest⟩
  · exact .inl ⟨by simp only [exec, execLoadRegs, haddr, hread, loadedRegs], hin⟩
  · exact .inr ⟨k, hk, by simp only [exec, execLoadRegs, haddr, hread], hrest⟩

/-- A write of the register file that keeps every register outside the named ones. -/
theorem setRegs_frame {c : Changes} {v : Vector Byte 16} {s : State}
    (hkeep : ∀ k : Reg, ¬ c.regs k → v[k.val] = readV k s) : Frame c s (setRegs v s) := by
  constructor
  case regs => exact hkeep
  all_goals simp

/-- Settles O23: the first answer of `exec_loadRegs_cases` when the x + 1 bytes fit, else the second. -/
theorem registersAreLoaded : Obligations.RegistersAreLoaded := by
  intro x s
  refine ⟨toNat_wordXNN_fixed 0xF x 0x65, ?_⟩
  rcases exec_loadRegs_cases x s with ⟨hexec, hin⟩ | ⟨k, hk, hexec, hout, hlow⟩
  · have hlast := hin x.val (by omega)
    refine ⟨fun _ => ⟨_, hexec, rfl, fun k hk => ?_, setPc_frame (setRegs_frame fun k hk => ?_) _⟩, by omega⟩
    · exact (getElem_loadedRegs x k s).trans (if_pos hk)
    · exact (getElem_loadedRegs x k s).trans (if_neg hk)
  · exact ⟨by omega, fun _ => ⟨_, _, hexec, raised_at_lowest _ (by omega) hk hout hlow⟩⟩

end Sys2Proof.Machine
end

section
/-! PROOFS. The display of spec/44_display.md: what a write of the display and dirty keeps, and CLS (R170). -/

namespace Sys2Proof.Machine

open Sys2Proof.Safety

/-- A write of the display and dirty keeps everything else. -/
theorem setDisplay_frame {c : Changes} (hc : c.display) (d : Display) (b : Bool) (s : State) :
    Frame c s (setDirty b (setDisplay d s)) := by
  constructor
  case display => exact (absurd hc ·)
  all_goals simp

theorem getElem_clearDisplay (r : Fin 32) (c : Fin 64) : clearDisplay[r.val][c.val] = false := by
  simp only [clearDisplay, Vector.getElem_replicate]

/-- Settles O24: CLS puts the clear display, sets dirty and advances. -/
theorem clearEmptiesTheDisplay : Obligations.ClearEmptiesTheDisplay :=
  fun s => ⟨rfl, _, rfl, getElem_clearDisplay, rfl, rfl, setPc_frame (setDisplay_frame trivial _ _ s) _⟩

end Sys2Proof.Machine
end

section
/-! PROOFS. The keyboard and the timers of spec/45_keys_timers.md: the skips on a key (R180 to R182), the read and the
writes of the timers (R183, R185, R186), and the key wait from FX0A to its delivery (R184, R216). -/

namespace Sys2Proof.Machine

open Sys2Proof.Safety

/-! ### Skips on a key (R180 to R182) -/

/-- A byte names a held key: a value above 15 names none (R182, D20). -/
theorem held_iff (a : Byte) (s : State) :
    held a s = true ↔ ∃ k : Key, a.toNat = k.val ∧ s.keys.getLsbD k.val = true := by
  rw [held, Bool.and_eq_true, decide_eq_true_iff]
  constructor
  · rintro ⟨hle, hbit⟩
    exact ⟨⟨a.toNat, Nat.lt_succ_of_le hle⟩, rfl, hbit⟩
  · rintro ⟨k, hk, hbit⟩
    exact ⟨hk ▸ Nat.le_of_lt_succ k.isLt, hk ▸ hbit⟩

theorem held_eq_false_iff (a : Byte) (s : State) :
    held a s = false ↔ ∀ k : Key, a.toNat = k.val → s.keys.getLsbD k.val = false := by
  rw [← Bool.not_eq_true, held_iff]
  simp

/-- Settles O27: SKP skips on `held`, SKNP on its negation. -/
theorem skipsOnKey : Obligations.SkipsOnKey := by
  intro x s
  have hheld := held_iff (readV x s) s
  have hfree := held_eq_false_iff (readV x s) s
  obtain ⟨t, hexec, hframe, hfetch, hskip, hnext⟩ :=
    exec_skips (i := .sknp x) (s := s) rfl (fun h => by rw [hfree.mpr h, Bool.not_false])
      (fun h => by rw [hheld.mpr h, Bool.not_true])
  exact ⟨toNat_wordXNN_fixed 0xE x 0x9E, toNat_wordXNN_fixed 0xE x 0xA1, exec_skips rfl hheld.mpr hfree.mpr,
    t, hexec, hframe, hfetch, hnext, hskip⟩

/-! ### The timers (R183, R185, R186) -/

/-- Settles O28: FX07 writes DT to Vx and advances. -/
theorem delayTimerIsRead : Obligations.DelayTimerIsRead := fun x s =>
  ⟨toNat_wordXNN_fixed 0xF x 0x07, _, rfl, advance_writeV_only x s.dt s⟩

theorem setDt_frame {c : Changes} (hc : c.dt) (b : Byte) (s : State) : Frame c s (setDt b s) := by
  constructor
  case dt => exact (absurd hc ·)
  all_goals simp

theorem setSt_frame {c : Changes} (hc : c.st) (b : Byte) (s : State) : Frame c s (setSt b s) := by
  constructor
  case st => exact (absurd hc ·)
  all_goals simp

/-- The sound is on while ST is not 0, unless Faulted (R214). -/
theorem soundOn_iff (s : State) : soundOn s = true ↔ s.st ≠ 0 ∧ s.mode ≠ .faulted := by
  rw [soundOn, Bool.and_eq_true, bne_iff_ne, bne_iff_ne]

/-- Settles O30: each of the two writes Vx to its timer and advances; the sound follows ST. -/
theorem timersAreSet : Obligations.TimersAreSet := fun x s =>
  ⟨toNat_wordXNN_fixed 0xF x 0x15, toNat_wordXNN_fixed 0xF x 0x18,
    ⟨_, rfl, rfl, rfl, setPc_frame (setDt_frame trivial (readV x s) s) _⟩,
    ⟨_, rfl, rfl, rfl, setPc_frame (setSt_frame trivial (readV x s) s) _,
      fun hmode => (soundOn_iff _).trans (and_iff_left hmode)⟩⟩

/-! ### The key wait (R184, R216) -/

/-- A write of the mode, where it may change, keeps the frame. -/
theorem setMode_frame {c : Changes} {s t : State} (h : Frame c s t) (hc : c.mode) (m : Mode) :
    Frame c s (setMode m t) :=
  { h with mode := (absurd hc ·) }

/-- A key delivered to a waiting machine lands in the awaited register, and the machine runs on behind the FX0A
(R216). -/
theorem applyEvent_deliverKey {s : State} {r : Reg} (h : s.mode = .awaitingKey r) (k : Key) :
    applyEvent (.deliverKey k) s =
      setPc (s.pc + 2) (setMode .running (writeV r (BitVec.ofNat 8 k.val) s)) := by
  simp only [applyEvent, deliverKey, h]

/-- A key number fits in a byte. -/
theorem toNat_ofNat_key (k : Key) : (BitVec.ofNat 8 k.val).toNat = k.val :=
  Nat.mod_eq_of_lt (k.isLt.trans (by decide))

/-- What the delivery that ends a key wait promises (R216). -/
theorem deliverKey_ends_wait {s : State} {r : Reg} (h : s.mode = .awaitingKey r) (k : Key) :
    (readV r (applyEvent (.deliverKey k) s)).toNat = k.val ∧
      (applyEvent (.deliverKey k) s).mode = .running ∧ (applyEvent (.deliverKey k) s).pc = s.pc + 2 ∧
      Frame { regs := fun j => j = r, mode := True } s (applyEvent (.deliverKey k) s) := by
  rw [applyEvent_deliverKey h]
  refine ⟨?_, rfl, rfl, setPc_frame (setMode_frame (writeV_frame (Frame.refl _ s) rfl _) trivial _) _⟩
  rw [readV_setPc, readV_setMode, readV_writeV_self, toNat_ofNat_key]

/-- An event that is no delivery leaves a key wait going (R184, R215). -/
theorem applyEvent_awaiting {e : HostEvent} {s : State} {r : Reg} (h : s.mode = .awaitingKey r)
    (he : ∀ k, e ≠ .deliverKey k) : (applyEvent e s).mode = .awaitingKey r :=
  applyEvents_awaiting (events := [e]) h fun k hk => he k (List.mem_singleton.mp hk).symm

/-- Settles O29: FX0A writes the mode alone; a key's press and release are no deliveries, and a delivery ends the
wait. -/
theorem keyWaitBeginsAndCompletes : Obligations.KeyWaitBeginsAndCompletes := by
  intro x s
  have hwait : (setMode (.awaitingKey x) s).mode = .awaitingKey x := setMode_mode ..
  exact ⟨toNat_wordXNN_fixed 0xF x 0x0A, setMode (.awaitingKey x) s, rfl, hwait, rfl,
    setMode_frame (Frame.refl _ s) trivial _,
    fun _ => ⟨applyEvent_awaiting hwait nofun, applyEvent_awaiting hwait nofun⟩,
    deliverKey_ends_wait hwait⟩

end Sys2Proof.Machine
end

section
/-! PROOFS. The faults and the host interface of spec/60_exceptions.md: which executions end Faulted (R201 to R203,
R205), the events of phase 1 (R204, R216 to R218, R220), the timer update (R211), and the sound output (R214). -/

namespace Sys2Proof.Machine

open Sys2Proof.Safety

/-! ### Faults (R201 to R203, R205) -/

/-- An execution from `s` that answers a next state ends Faulted exactly when `R` names a cause and an address, and
whatever it names has been raised (R202). -/
def FaultsBy (R : FaultCause → Nat → Prop) (s : State) (r : Result) : Prop :=
  ∀ t, r = .next t → (t.mode = .faulted ↔ ∃ c a, R c a) ∧ ∀ c a, R c a → Raised c a s t

theorem FaultsBy.congr {R R' : FaultCause → Nat → Prop} {s : State} {r : Result} (h : FaultsBy R s r)
    (hR : ∀ c a, R' c a ↔ R c a) : FaultsBy R' s r := by
  obtain rfl : R' = R := funext₂ fun c a => propext (hR c a)
  exact h

theorem faultsBy_next {R : FaultCause → Nat → Prop} {s t : State} (hmode : t.mode ≠ .faulted)
    (hR : ∀ c a, ¬ R c a) : FaultsBy R s (.next t) := by
  rintro _ ⟨⟩
  exact ⟨iff_of_false hmode fun ⟨c, a, h⟩ => hR c a h, fun c a h => absurd h (hR c a)⟩

theorem faultsBy_raise {R : FaultCause → Nat → Prop} {c : FaultCause} {a : Nat} {s : State}
    (hraised : Raised c a s (raise c a s)) (hR : ∀ c' a', R c' a' ↔ c' = c ∧ a' = a) :
    FaultsBy R s (.next (raise c a s)) := by
  rintro _ ⟨⟩
  refine ⟨iff_of_true rfl ⟨c, a, (hR c a).mpr ⟨rfl, rfl⟩⟩, fun c' a' h => ?_⟩
  obtain ⟨rfl, rfl⟩ := (hR c' a').mp h
  exact hraised

/-- An access inside the address space has no byte above 0xFFF. -/
theorem not_lowestOutOfRange {base n : Nat} (hin : ∀ k < n, base + k ≤ 0xFFF) (a : Nat) :
    ¬ LowestOutOfRange base n a := by
  rintro ⟨⟨k, hk, rfl⟩, hout, -⟩
  exact absurd hout (hin k hk).not_gt

theorem lowestOutOfRange_unique {base n a b : Nat} (ha : LowestOutOfRange base n a)
    (hb : LowestOutOfRange base n b) : a = b := by
  obtain ⟨⟨j, hj, rfl⟩, hjout, hjleast⟩ := ha
  obtain ⟨⟨k, hk, rfl⟩, hkout, hkleast⟩ := hb
  exact le_antisymm (hjleast k hk hkout) (hkleast j hj hjout)

/-- An access through I inside the address space raises nothing. -/
theorem faultsBy_access_inside {c : FaultCause} {s t : State} {n : Nat} (hmode : t.mode ≠ .faulted)
    (hin : ∀ k < n, s.i.toNat + k ≤ 0xFFF) :
    FaultsBy (fun c' a => c' = c ∧ LowestOutOfRange s.i.toNat n a) s (.next t) :=
  faultsBy_next hmode fun _ a h => not_lowestOutOfRange hin a h.2

/-- An access of at most 16 bytes through I that first leaves the address space at byte `k` raises that address. -/
theorem faultsBy_access_outside {c : FaultCause} {s : State} {n k : Nat} (hn : n ≤ 16) (hk : k < n)
    (hout : 0xFFF < s.i.toNat + k) (hlow : ∀ j < k, s.i.toNat + j ≤ 0xFFF) :
    FaultsBy (fun c' a => c' = c ∧ LowestOutOfRange s.i.toNat n a) s
      (.next (raise c (s.i.toNat + k) s)) := by
  obtain ⟨hlowest, hraised⟩ := raised_at_lowest c hn hk hout hlow
  exact faultsBy_raise hraised fun _ _ => and_congr_right fun _ =>
    ⟨(lowestOutOfRange_unique · hlowest), fun h => h ▸ hlowest⟩

theorem exec_call_faultsBy (nnn : Addr12) {s : State} (hs : s.mode ≠ .faulted) :
    FaultsBy (Raises (.call nnn) s) s (exec (.call nnn) s) := by
  rcases (Nat.le_of_lt_succ s.sp.isLt).lt_or_eq with hroom | hfull
  · rw [exec_call_pushes nnn hroom]
    exact faultsBy_next hs fun _ _ ⟨_, hsp, _⟩ => hroom.ne hsp
  · rw [exec_call_full nnn hfull]
    exact faultsBy_raise (raised_raise _ (by decide) s) fun _ _ => and_congr_right fun _ => and_iff_right hfull

theorem exec_ret_faultsBy {s : State} (hs : s.mode ≠ .faulted) :
    FaultsBy (Raises .ret s) s (exec .ret s) := by
  rcases hsp : s.sp.val with _ | n
  · rw [exec_ret_empty hsp]
    exact faultsBy_raise (raised_raise _ (by decide) s) fun _ _ => and_congr_right fun _ => and_iff_right hsp
  · rw [exec_ret_pops (by omega) hsp]
    exact faultsBy_next hs fun _ _ ⟨_, hempty, _⟩ => by omega

/-- What DRW can answer: something drawn, VF and dirty written and pc advanced, or a fault at the lowest address out of
range. -/
theorem exec_drw_cases (x y : Reg) (n : Nibble) (s : State) :
    (∃ d f, exec (.drw x y n) s = .next (advance (setDirty true (setFlag f (setDisplay d s)))) ∧
      ∀ k < n.toNat, s.i.toNat + k ≤ 0xFFF) ∨
    ∃ k < n.toNat, exec (.drw x y n) s = .next (raise .readOutOfRange (s.i.toNat + k) s) ∧
      0xFFF < s.i.toNat + k ∧ ∀ j < k, s.i.toNat + j ≤ 0xFFF := by
  have haddr : effectiveAddr s 0 = s.i.toNat := rfl
  rcases readBytes_cases s.mem s.i.toNat n.toNat with ⟨hread, hin⟩ | ⟨k, hk, hread, hrest⟩
  · exact .inl ⟨_, _, by simp only [exec, execDrw, haddr, hread]; rfl, hin⟩
  · exact .inr ⟨k, hk, by simp only [exec, execDrw, haddr, hread], hrest⟩

theorem exec_drw_faultsBy (x y : Reg) (n : Nibble) {s : State} (hs : s.mode ≠ .faulted) :
    FaultsBy (Raises (.drw x y n) s) s (exec (.drw x y n) s) := by
  rcases exec_drw_cases x y n s with ⟨d, f, hexec, hin⟩ | ⟨k, hk, hexec, hout, hlow⟩ <;> rw [hexec]
  · exact faultsBy_access_inside hs hin
  · exact faultsBy_access_outside (Nat.le_of_lt n.isLt) hk hout hlow

theorem exec_loadRegs_faultsBy (x : Reg) {s : State} (hs : s.mode ≠ .faulted) :
    FaultsBy (Raises (.loadRegs x) s) s (exec (.loadRegs x) s) := by
  rcases exec_loadRegs_cases x s with ⟨hexec, hin⟩ | ⟨k, hk, hexec, hout, hlow⟩ <;> rw [hexec]
  · exact faultsBy_access_inside hs hin
  · exact faultsBy_access_outside x.isLt hk hout hlow

/-- A store raises WriteOutOfRange by the length of its run of bytes. -/
theorem storeAtI_faultsBy {bs : List Byte} {n : Nat} {s : State} (hs : s.mode ≠ .faulted) (hlen : bs.length = n)
    (hn : n ≤ 16) :
    FaultsBy (fun c a => c = .writeOutOfRange ∧ LowestOutOfRange s.i.toNat n a) s (storeAtI bs s) := by
  subst hlen
  rcases storeAtI_cases bs s with ⟨m, hstore, hin, -⟩ | ⟨k, hk, hstore, hout, hlow⟩ <;> rw [hstore]
  · exact faultsBy_access_inside hs hin
  · exact faultsBy_access_outside hn hk hout hlow

/-- Every instruction raises by the table of R201; those not named here raise nothing, and only FX0A among them writes
the mode. -/
theorem exec_faultsBy (i : Instr) {s : State} (hs : s.mode ≠ .faulted) : FaultsBy (Raises i s) s (exec i s) := by
  cases i with
  | call nnn => exact exec_call_faultsBy nnn hs
  | ret => exact exec_ret_faultsBy hs
  | drw x y n => exact exec_drw_faultsBy x y n hs
  | loadRegs x => exact exec_loadRegs_faultsBy x hs
  | ldBVx x => exact storeAtI_faultsBy hs (length_decimalDigits _) (by decide)
  | storeRegs x => exact storeAtI_faultsBy hs (length_regsUpTo x s) x.isLt
  | ldVxK x => exact faultsBy_next (by simp) fun _ _ => id
  | _ => exact faultsBy_next hs fun _ _ => id

/-- A pc that leaves no room for a word makes the fetch raise, before anything is decoded (R205). -/
theorem execute_without_room {s : State} (hpc : 0xFFF ≤ s.pc.toNat) :
    execute s = .next (raise .fetchOutOfRange (max 0x1000 s.pc.toNat) s) := by
  rcases fetch_cases s with ⟨hroom, -⟩ | ⟨heq, hfetch⟩ | ⟨hgt, hfetch⟩
  · omega
  · rw [execute, hfetch, heq]
    rfl
  · rw [execute, hfetch, max_eq_right hgt]

/-- Where the fetch succeeds, an execution is that of the fetched word (R101). -/
theorem execute_with_room {s : State} (hpc : s.pc.toNat ≤ 0xFFE) : execute s = executeWord (wordAtPc s) s := by
  rcases fetch_cases s with ⟨-, hfetch⟩ | ⟨heq, -⟩ | ⟨hgt, -⟩
  · exact execute_of_fetch_ok hfetch
  · omega
  · omega

theorem executeWord_row {w : Word} {i : Instr} (hw : decodeWord w = some i) (s : State) :
    executeWord w s = exec i s := by
  simp only [executeWord, hw]

/-- A word raises what the instruction it decodes to raises, and a word without a row nothing (R88, R103). -/
theorem executeWord_faultsBy (w : Word) {s : State} (hs : s.mode ≠ .faulted) :
    FaultsBy (fun c a => ∃ i, decodeWord w = some i ∧ Raises i s c a) s (executeWord w s) := by
  cases hw : decodeWord w with
  | none =>
    rw [executeWord_noRow hw]
    exact faultsBy_next hs fun _ _ ⟨_, hnone, _⟩ => nomatch hnone
  | some i =>
    rw [executeWord_row hw]
    exact (exec_faultsBy i hs).congr fun _ _ => by simp

/-- An execution raises what its fetch raises, and otherwise what the word at pc raises. -/
theorem execute_faultsBy {s : State} (hs : s.mode ≠ .faulted) : FaultsBy (ExecuteRaises s) s (execute s) := by
  by_cases hpc : 0xFFF ≤ s.pc.toNat
  · have hfits : max 0x1000 s.pc.toNat < 2 ^ 17 := by
      have := s.pc.isLt
      omega
    rw [execute_without_room hpc]
    exact faultsBy_raise (raised_raise _ hfits s) fun _ _ => (or_iff_left fun h => by omega).trans (and_iff_right hpc)
  · have hroom : s.pc.toNat ≤ 0xFFE := by omega
    rw [execute_with_room hroom]
    exact (executeWord_faultsBy _ hs).congr fun _ _ =>
      (or_iff_right fun h => hpc h.1).trans (and_iff_right hroom)

/-- Settles O49: `execute_faultsBy` for an execution, `exec_faultsBy` for an instruction alone. -/
theorem faultsArePreciseAndFew : Obligations.FaultsArePreciseAndFew :=
  ⟨⟨rfl, rfl, rfl, rfl, rfl, rfl⟩, fun _ t hs => execute_faultsBy hs t, fun i _ t hs => exec_faultsBy i hs t⟩

/-! ### Host events (R204, R216 to R218, R220) -/

/-- While Faulted an event has no effect (R204). -/
theorem applyEvent_faulted {s : State} (hs : s.mode = .faulted) (e : HostEvent) : applyEvent e s = s := by
  simp only [applyEvent, hs]

/-- The key events and ack_display have their effect in every other mode, a key wait among them (R217, R218, R220). -/
theorem applyEvent_of_not_faulted {s : State} (hs : s.mode ≠ .faulted) (k : Key) :
    applyEvent (.keyDown k) s = setKeys (s.keys ||| keyBit k) s ∧
      applyEvent (.keyUp k) s = setKeys (s.keys &&& ~~~keyBit k) s ∧
      applyEvent .ackDisplay s = setDirty false s := by
  cases hm : s.mode with
  | faulted => exact absurd hm hs
  | running | awaitingKey _ => simp only [applyEvent, hm, keyDown, keyUp, ackDisplay, and_self]

/-- A delivery with no key awaited has no effect (R216). -/
theorem applyEvent_deliverKey_of_not_awaiting {s : State} (h : ∀ r, s.mode ≠ .awaitingKey r) (k : Key) :
    applyEvent (.deliverKey k) s = s := by
  cases hm : s.mode with
  | awaitingKey r => exact absurd hm (h r)
  | running | faulted => simp only [applyEvent, deliverKey, hm]

/-- A key's mask has the key's bit alone (R31). -/
theorem getLsbD_keyBit (j k : Key) : (keyBit k).getLsbD j.val = decide (j = k) := by
  rw [show keyBit k = BitVec.twoPow 16 k.val from rfl, BitVec.getLsbD_twoPow, decide_eq_true k.isLt, Bool.true_and]
  exact decide_eq_decide.mpr (Fin.val_inj.trans eq_comm)

theorem getLsbD_or_keyBit (keys : BitVec 16) (j k : Key) :
    (keys ||| keyBit k).getLsbD j.val = (keys.getLsbD j.val || decide (j = k)) := by
  rw [BitVec.getLsbD_or, getLsbD_keyBit]

theorem getLsbD_and_not_keyBit (keys : BitVec 16) (j k : Key) :
    (keys &&& ~~~keyBit k).getLsbD j.val = (keys.getLsbD j.val && decide (j ≠ k)) := by
  rw [BitVec.getLsbD_and, BitVec.getLsbD_not, decide_eq_true j.isLt, Bool.true_and, getLsbD_keyBit, decide_not]

/-- Settles O31: the two key events write `keys` alone, with the key's bit set or cleared, and ack_display writes dirty
alone. -/
theorem keyAndAckEvents : Obligations.KeyAndAckEvents := by
  refine fun k s => ⟨fun hs => ?_, applyEvent_faulted⟩
  obtain ⟨hdown, hup, hack⟩ := applyEvent_of_not_faulted hs k
  rw [hdown, hup, hack]
  exact ⟨fun j => getLsbD_or_keyBit s.keys j k, rfl, fun j => getLsbD_and_not_keyBit s.keys j k, rfl, rfl⟩

/-- Settles O32: a delivery ends a wait, and without one it has no effect. -/
theorem deliverKeyEndsTheWait : Obligations.DeliverKeyEndsTheWait := fun k _ =>
  ⟨fun _ hwait => deliverKey_ends_wait hwait k, fun hfree => applyEvent_deliverKey_of_not_awaiting hfree k⟩

/-! ### Timers and sound (R211, R214) -/

/-- A timer steps down by one and stays at 0 (R211). -/
theorem toNat_countDown (b : Byte) : (countDown b).toNat = b.toNat - 1 := by
  rw [countDown]
  split
  · subst b
    rfl
  · bv_omega

/-- A tick is due by the integers' difference: a `now` before the last tick is no time passed (D22). -/
theorem tickDue_iff (now lastTick : Nat) :
    tickDue now lastTick = true ↔ (60 : Int) * ((now : Int) - lastTick) ≥ 1000000000 := by
  rw [tickDue, decide_eq_true_iff, Config.second, Config.timerRate]
  omega

/-- Settles O34: `timerUpdate_cases` says what a tick does, `tickDue_iff` when it is due. -/
theorem timerUpdateTicksAtSixtyHertz : Obligations.TimerUpdateTicksAtSixtyHertz := by
  intro now s
  refine ⟨fun hdue => ?_, fun hearly => ?_, phase3_eq now s⟩ <;>
    rcases timerUpdate_cases now s with ⟨htick, hupdate⟩ | ⟨htick, hupdate⟩
  · exact absurd ((tickDue_iff ..).mpr hdue) (by simp [htick])
  · rw [hupdate]
    exact ⟨toNat_countDown s.dt, toNat_countDown s.st, rfl⟩
  · exact hupdate
  · exact absurd ((tickDue_iff ..).mp htick) (not_le.mpr hearly)

/-- Settles O36: a byte other than 0 is one whose number is not 0. -/
theorem soundFollowsTheSoundTimer : Obligations.SoundFollowsTheSoundTimer := fun s =>
  ⟨(soundOn_iff s).trans (and_congr_left' BitVec.toNat_eq.not), rfl⟩

end Sys2Proof.Machine
end

section
/-! PROOFS. The decoder and the encoder of spec/30_encoding.md: the fields of a word and the word of its fields (R80 to
R86), rows that overlap (R88), decoding against encoding, and the words without a row (R89). -/

namespace Sys2Proof

open Sys2Proof.Laws

/-! ### The fields of an encoded word (R81 to R86) -/

/-- A field that lies above the low part of a concatenation is a field of the high part. -/
theorem extractLsb'_append_high {m n : Nat} (a : BitVec m) (b : BitVec n) (start len : Nat) :
    (a ++ b).extractLsb' (n + start) len = a.extractLsb' start len := by
  ext i hi
  simp [BitVec.getLsbD_append, Nat.add_assoc]

theorem opOf_wordNNN (op : Nibble) (nnn : Addr12) : opOf (wordNNN op nnn) = op :=
  BitVec.extractLsb'_append_eq_left

@[simp] theorem nnnOf_wordNNN (op : Nibble) (nnn : Addr12) : nnnOf (wordNNN op nnn) = nnn :=
  BitVec.extractLsb'_append_eq_right

theorem opOf_wordXNN (op : Nibble) (x : Reg) (nn : Byte) : opOf (wordXNN op x nn) = op :=
  (extractLsb'_append_high (op ++ regField x) nn 4 4).trans BitVec.extractLsb'_append_eq_left

@[simp] theorem xOf_wordXNN (op : Nibble) (x : Reg) (nn : Byte) : xOf (wordXNN op x nn) = x :=
  congrArg BitVec.toFin
    ((extractLsb'_append_high (op ++ regField x) nn 0 4).trans BitVec.extractLsb'_append_eq_right)

@[simp] theorem nnOf_wordXNN (op : Nibble) (x : Reg) (nn : Byte) : nnOf (wordXNN op x nn) = nn :=
  BitVec.extractLsb'_append_eq_right (a := op ++ regField x)

theorem opOf_wordXYN (op : Nibble) (x y : Reg) (n : Nibble) : opOf (wordXYN op x y n) = op :=
  (extractLsb'_append_high (op ++ regField x ++ regField y) n 8 4).trans
    ((extractLsb'_append_high (op ++ regField x) (regField y) 4 4).trans BitVec.extractLsb'_append_eq_left)

@[simp] theorem xOf_wordXYN (op : Nibble) (x y : Reg) (n : Nibble) : xOf (wordXYN op x y n) = x :=
  congrArg BitVec.toFin
    ((extractLsb'_append_high (op ++ regField x ++ regField y) n 4 4).trans
      ((extractLsb'_append_high (op ++ regField x) (regField y) 0 4).trans BitVec.extractLsb'_append_eq_right))

@[simp] theorem yOf_wordXYN (op : Nibble) (x y : Reg) (n : Nibble) : yOf (wordXYN op x y n) = y :=
  congrArg BitVec.toFin
    ((extractLsb'_append_high (op ++ regField x ++ regField y) n 0 4).trans BitVec.extractLsb'_append_eq_right)

@[simp] theorem nOf_wordXYN (op : Nibble) (x y : Reg) (n : Nibble) : nOf (wordXYN op x y n) = n :=
  BitVec.extractLsb'_append_eq_right (a := op ++ regField x ++ regField y)

/-! ### The word of its fields -/

/-- Two adjacent fields are one wider field. -/
theorem adjacent_fields (w : Word) (start high low : Nat) :
    w.extractLsb' (start + low) high ++ w.extractLsb' start low = w.extractLsb' start (high + low) :=
  BitVec.extractLsb'_append_extractLsb'_eq_extractLsb' rfl

theorem wordNNN_fields (w : Word) : wordNNN (opOf w) (nnnOf w) = w :=
  (adjacent_fields w 0 4 12).trans BitVec.extractLsb'_eq_self

theorem wordXNN_fields (w : Word) : wordXNN (opOf w) (xOf w) (nnOf w) = w :=
  calc wordXNN (opOf w) (xOf w) (nnOf w)
    _ = w.extractLsb' 8 8 ++ w.extractLsb' 0 8 := congrArg (· ++ w.extractLsb' 0 8) (adjacent_fields w 8 4 4)
    _ = w := (adjacent_fields w 0 8 8).trans BitVec.extractLsb'_eq_self

theorem wordXYN_fields (w : Word) : wordXYN (opOf w) (xOf w) (yOf w) (nOf w) = w :=
  calc wordXYN (opOf w) (xOf w) (yOf w) (nOf w)
    _ = w.extractLsb' 8 8 ++ w.extractLsb' 4 4 ++ w.extractLsb' 0 4 :=
      congrArg (· ++ w.extractLsb' 4 4 ++ w.extractLsb' 0 4) (adjacent_fields w 8 4 4)
    _ = w.extractLsb' 4 12 ++ w.extractLsb' 0 4 := congrArg (· ++ w.extractLsb' 0 4) (adjacent_fields w 4 8 4)
    _ = w := (adjacent_fields w 0 12 4).trans BitVec.extractLsb'_eq_self

/-! ### Words with given fixed bits (R86 to R88) -/

theorem opOf_of_and {w v : Word} (h : w &&& 0xF000 = v) : opOf v = opOf w := by
  rw [← h, opOf, opOf, BitVec.extractLsb'_and]
  exact nibble_and_ones _

theorem opOf_nOf_of_and {w v : Word} (h : w &&& 0xF00F = v) : opOf v = opOf w ∧ nOf v = nOf w := by
  rw [← h, opOf, opOf, nOf, nOf, BitVec.extractLsb'_and, BitVec.extractLsb'_and]
  exact ⟨nibble_and_ones _, nibble_and_ones _⟩

theorem opOf_nnOf_of_and {w v : Word} (h : w &&& 0xF0FF = v) : opOf v = opOf w ∧ nnOf v = nnOf w := by
  rw [← h, opOf, opOf, nnOf, nnOf, BitVec.extractLsb'_and, BitVec.extractLsb'_and]
  exact ⟨nibble_and_ones _, BitVec.and_allOnes⟩

theorem wordNNN_of_and {w v : Word} (h : w &&& 0xF000 = v) : wordNNN (opOf v) (nnnOf w) = w := by
  rw [opOf_of_and h, wordNNN_fields]

theorem wordXNN_of_and_op {w v : Word} (h : w &&& 0xF000 = v) : wordXNN (opOf v) (xOf w) (nnOf w) = w := by
  rw [opOf_of_and h, wordXNN_fields]

theorem wordXNN_of_and {w v : Word} (h : w &&& 0xF0FF = v) : wordXNN (opOf v) (xOf w) (nnOf v) = w := by
  obtain ⟨hop, hnn⟩ := opOf_nnOf_of_and h
  rw [hop, hnn, wordXNN_fields]

theorem wordXYN_of_and_op {w v : Word} (h : w &&& 0xF000 = v) :
    wordXYN (opOf v) (xOf w) (yOf w) (nOf w) = w := by
  rw [opOf_of_and h, wordXYN_fields]

theorem wordXYN_of_and {w v : Word} (h : w &&& 0xF00F = v) :
    wordXYN (opOf v) (xOf w) (yOf w) (nOf v) = w := by
  obtain ⟨hop, hn⟩ := opOf_nOf_of_and h
  rw [hop, hn, wordXYN_fields]

theorem eq_of_and_ones {w v : Word} (h : w &&& 0xFFFF = v) : v = w :=
  h.symm.trans BitVec.and_allOnes

/-! ### The rows (R87, R88) -/

/-- What a row builds from a word that fits it is encoded by that word: the fields the row reads and its fixed bits are
all of the word. One entry for each row, in the table's order. -/
theorem encode_build {w : Word} : ∀ r ∈ rows, r.fits w = true → encode (r.build w) = w := by
  simp only [rows, List.forall_mem_append, List.forall_mem_cons, Row.fits, beq_iff_eq]
  exact ⟨⟨⟨eq_of_and_ones, eq_of_and_ones, wordNNN_of_and, wordNNN_of_and, wordNNN_of_and, wordXNN_of_and_op,
    wordXNN_of_and_op, wordXYN_of_and, wordXNN_of_and_op, wordXNN_of_and_op, wordXYN_of_and, wordXYN_of_and, nofun⟩,
    wordXYN_of_and, wordXYN_of_and, wordXYN_of_and, wordXYN_of_and, wordXYN_of_and, wordXYN_of_and, wordXYN_of_and,
    wordXYN_of_and, wordNNN_of_and, wordNNN_of_and, wordXNN_of_and_op, wordXYN_of_and_op, nofun⟩,
    wordXNN_of_and, wordXNN_of_and, wordXNN_of_and, wordXNN_of_and, wordXNN_of_and, wordXNN_of_and, wordXNN_of_and,
    wordXNN_of_and, wordXNN_of_and, wordXNN_of_and, wordXNN_of_and, nofun⟩

open FixedBits (rowIndex)

/-- An instruction's row gives it back from its word. -/
theorem build_encode (i : Instr) : (rows[rowIndex i]?).map (·.build (encode i)) = some i := by
  cases i <;> simp [rows, rowIndex, encode]

theorem fits_encode : ∀ i : Instr, (rows[rowIndex i]?).any (·.fits (encode i)) = true
  | .cls => FixedBits.cls | .ret => FixedBits.ret | .sys a => FixedBits.sys a | .jp a => FixedBits.jp a
  | .call a => FixedBits.call a | .seImm x nn => FixedBits.seImm x nn | .sneImm x nn => FixedBits.sneImm x nn
  | .seReg x y => FixedBits.seReg x y | .ldImm x nn => FixedBits.ldImm x nn
  | .addImm x nn => FixedBits.addImm x nn | .ldReg x y => FixedBits.ldReg x y | .orReg x y => FixedBits.orReg x y
  | .andReg x y => FixedBits.andReg x y | .xorReg x y => FixedBits.xorReg x y
  | .addReg x y => FixedBits.addReg x y | .subReg x y => FixedBits.subReg x y | .shr x y => FixedBits.shr x y
  | .subnReg x y => FixedBits.subnReg x y | .shl x y => FixedBits.shl x y | .sneReg x y => FixedBits.sneReg x y
  | .ldI a => FixedBits.ldI a | .jpV0 a => FixedBits.jpV0 a | .rnd x nn => FixedBits.rnd x nn
  | .drw x y n => FixedBits.drw x y n | .skp x => FixedBits.skp x | .sknp x => FixedBits.sknp x
  | .ldVxDt x => FixedBits.ldVxDt x | .ldVxK x => FixedBits.ldVxK x | .ldDtVx x => FixedBits.ldDtVx x
  | .ldStVx x => FixedBits.ldStVx x | .addIVx x => FixedBits.addIVx x | .ldFVx x => FixedBits.ldFVx x
  | .ldBVx x => FixedBits.ldBVx x | .storeRegs x => FixedBits.storeRegs x | .loadRegs x => FixedBits.loadRegs x

/-- An instruction's word fits its row, which gives the instruction back. -/
theorem row_of_instr (i : Instr) :
    ∃ r, rows[rowIndex i]? = some r ∧ r.fits (encode i) = true ∧ r.build (encode i) = i := by
  have hfits := fits_encode i
  have hbuild := build_encode i
  cases hr : rows[rowIndex i]? with
  | none => simp [hr] at hbuild
  | some r => exact ⟨r, rfl, by simpa [hr] using hfits, by simpa [hr] using hbuild⟩

/-- Two rows that fit one word agree on the bits that both fix. -/
theorem values_agree {r q : Row} {w : Word} (hr : r.fits w = true) (hq : q.fits w = true) :
    r.value &&& q.mask = q.value &&& r.mask := by
  rw [← eq_of_beq hr, ← eq_of_beq hq, BitVec.and_assoc, BitVec.and_assoc, BitVec.and_comm r.mask]

/-- Row 2 is SYS, behind CLS and RET: every other pair of rows differs in a bit that both fix (R88). -/
theorem rows_differ : ∀ j k : Fin 35, j < k →
    (rows[j.val]'j.isLt).value &&& (rows[k.val]'k.isLt).mask =
      (rows[k.val]'k.isLt).value &&& (rows[j.val]'j.isLt).mask → k.val = 2 := by
  decide

/-- Settles O5: by `rows_differ` the later row is SYS, and the two before it fix every bit of the word. -/
theorem rowsOverlapOnlyAtSys : Obligations.RowsOverlapOnlyAtSys := by
  intro w j k r q hj hk hlt hr hq
  obtain ⟨_, rfl⟩ := List.getElem?_eq_some_iff.mp hj
  obtain ⟨_, rfl⟩ := List.getElem?_eq_some_iff.mp hk
  have hsys := rows_differ j k hlt (values_agree hr hq)
  refine ⟨hsys, ?_⟩
  obtain h | h : j = 0 ∨ j = 1 := by omega
  · subst h
    exact .inl (eq_of_and_ones (eq_of_beq hr)).symm
  · subst h
    exact .inr (eq_of_and_ones (eq_of_beq hr)).symm

/-! ### Decoding and encoding -/

/-- A word decodes by any row it fits, SYS only if CLS and RET are excluded (R88). -/
theorem decodeWord_of_fits {w : Word} {k : Nat} {r : Row} (hr : rows[k]? = some r) (hfits : r.fits w = true)
    (hsys : k = 2 → w ≠ 0x00E0 ∧ w ≠ 0x00EE) : decodeWord w = some (r.build w) := by
  obtain ⟨hk, rfl⟩ := List.getElem?_eq_some_iff.mp hr
  have hfind : rows.find? (·.fits w) = some rows[k] := by
    refine List.find?_eq_some_iff_getElem.mpr ⟨hfits, k, hk, rfl, fun j hj => ?_⟩
    by_contra hfirst
    obtain ⟨h2, hw⟩ := rowsOverlapOnlyAtSys w ⟨j, hj.trans hk⟩ ⟨k, hk⟩ _ _
      (List.getElem?_eq_getElem (hj.trans hk)) hr hj (by simpa using hfirst) hfits
    obtain ⟨hcls, hret⟩ := hsys h2
    exact hw.elim hcls hret
  rw [decodeWord, hfind, Option.map_some]

theorem wf_iff (i : Instr) : i.wf = true ↔ i ≠ .sys 0x0E0 ∧ i ≠ .sys 0x0EE := by
  cases i <;> simp [Instr.wf]

/-- Only SYS has the word of CLS or RET with a row behind theirs. -/
theorem encode_ne_of_wf {i : Instr} (hwf : i.wf = true) (hsys : rowIndex i = 2) :
    encode i ≠ 0x00E0 ∧ encode i ≠ 0x00EE := by
  obtain ⟨hcls, hret⟩ := (wf_iff i).mp hwf
  cases i with
  | sys nnn =>
    have hfield : nnnOf (encode (.sys nnn)) = nnn := nnnOf_wordNNN 0 nnn
    exact ⟨fun h => hcls (by rw [← hfield, h]; rfl), fun h => hret (by rw [← hfield, h]; rfl)⟩
  | _ => cases hsys

/-- Settles O1: the instruction's word fits the instruction's row, and only SYS stands behind rows that could fit it
too. -/
theorem decodeOfEncodeIsTheInstruction : Obligations.DecodeOfEncodeIsTheInstruction := by
  intro i hwf
  obtain ⟨r, hr, hfits, hbuild⟩ := row_of_instr i
  rw [decodeWord_of_fits hr hfits (encode_ne_of_wf hwf), hbuild]

/-- The word of an instruction that a word decodes to. -/
theorem encode_of_decodeWord {w : Word} {i : Instr} (h : decodeWord w = some i) : encode i = w := by
  obtain ⟨r, hfind, rfl⟩ := Option.map_eq_some_iff.mp h
  exact encode_build r (List.mem_of_find?_eq_some hfind) (List.find?_some (p := fun r : Row => r.fits w) hfind)

/-- Settles O2: `encode_of_decodeWord`; and the words of the two ill-formed SYS decode to CLS and RET. -/
theorem encodeOfDecodeIsTheWord : Obligations.EncodeOfDecodeIsTheWord := by
  intro w i h
  have hw := encode_of_decodeWord h
  refine ⟨hw, (wf_iff i).mpr ⟨?_, ?_⟩⟩ <;> rintro rfl <;> subst hw <;> revert h <;> decide

/-- A word's bytes in memory order are the word (R55). -/
theorem wordOfBytes_bytes (w : Word) : wordOfBytes (w.extractLsb' 8 8) (w.extractLsb' 0 8) = w :=
  (adjacent_fields w 0 8 8).trans BitVec.extractLsb'_eq_self

/-- The bytes of a well-formed instruction decode to it, whatever follows them (R91). -/
theorem decode_encodeBytes {i : Instr} (hwf : i.wf = true) (rest : List Byte) :
    decode (encodeBytes i ++ rest) = .ok (i, rest) := by
  simp only [encodeBytes, bytesOfWord, List.cons_append, List.nil_append, decode, wordOfBytes_bytes,
    decodeOfEncodeIsTheInstruction i hwf]

/-- Settles O3: the ten byte strings are the bytes of the ten instructions. -/
theorem knownWordsDecode : Obligations.KnownWordsDecode := fun rest =>
  ⟨decode_encodeBytes (i := .cls) rfl rest, decode_encodeBytes (i := .ret) rfl rest,
    decode_encodeBytes (i := .sys 0x123) rfl rest, decode_encodeBytes (i := .jpV0 0x300) rfl rest,
    decode_encodeBytes (i := .seImm 3 0x42) rfl rest, decode_encodeBytes (i := .subReg 1 2) rfl rest,
    decode_encodeBytes (i := .drw 0 1 5) rfl rest, decode_encodeBytes (i := .sknp 2) rfl rest,
    decode_encodeBytes (i := .ldVxK 3) rfl rest, decode_encodeBytes (i := .loadRegs 2) rfl rest⟩

/-! ### The words without a row (R89) -/

theorem and_op_eq_iff {w v : Word} (hv : v &&& 0xF000 = v) : w &&& 0xF000 = v ↔ opOf w = opOf v := by
  refine ⟨fun h => (opOf_of_and h).symm, fun h => ?_⟩
  rw [← wordNNN_fields w, wordNNN_and, h, ← wordNNN_and _ (nnnOf v), wordNNN_fields, hv]

theorem and_op_n_eq_iff {w v : Word} (hv : v &&& 0xF00F = v) :
    w &&& 0xF00F = v ↔ opOf w = opOf v ∧ nOf w = nOf v := by
  refine ⟨fun h => (opOf_nOf_of_and h).imp Eq.symm Eq.symm, fun ⟨hop, hn⟩ => ?_⟩
  rw [← wordXYN_fields w, wordXYN_and, hop, hn, ← wordXYN_and _ (xOf v) (yOf v), wordXYN_fields, hv]

theorem and_op_nn_eq_iff {w v : Word} (hv : v &&& 0xF0FF = v) :
    w &&& 0xF0FF = v ↔ opOf w = opOf v ∧ nnOf w = nnOf v := by
  refine ⟨fun h => (opOf_nnOf_of_and h).imp Eq.symm Eq.symm, fun ⟨hop, hnn⟩ => ?_⟩
  rw [← wordXNN_fields w, wordXNN_and, hop, hnn, ← wordXNN_and _ (xOf v), wordXNN_fields, hv]

theorem and_ones_eq_iff {w v : Word} : w &&& 0xFFFF = v ↔ opOf w = opOf v ∧ nnnOf w = nnnOf v := by
  refine ⟨fun h => eq_of_and_ones h ▸ ⟨rfl, rfl⟩, fun ⟨hop, hnnn⟩ => ?_⟩
  rw [← wordNNN_fields w, hop, hnnn, wordNNN_fields]
  exact BitVec.and_allOnes

theorem decodeWord_eq_none_iff (w : Word) : decodeWord w = none ↔ ∀ r ∈ rows, ¬ r.fits w = true := by
  rw [decodeWord, Option.map_eq_none_iff, List.find?_eq_none]

theorem nibble_cases (op : Nibble) : op = 0 ∨ op = 1 ∨ op = 2 ∨ op = 3 ∨ op = 4 ∨ op = 5 ∨ op = 6 ∨ op = 7 ∨
    op = 8 ∨ op = 9 ∨ op = 10 ∨ op = 11 ∨ op = 12 ∨ op = 13 ∨ op = 14 ∨ op = 15 := by
  revert op
  decide

/-- In family 0 everything but CLS and RET is SYS (R89 (a)). -/
theorem decodeWord_sys {w : Word} (hop : opOf w = 0) (hcls : w ≠ 0x00E0) (hret : w ≠ 0x00EE) :
    decodeWord w = some (.sys (nnnOf w)) :=
  decodeWord_of_fits (k := 2) rfl (beq_iff_eq.mpr ((and_op_eq_iff rfl).mpr hop)) fun _ => ⟨hcls, hret⟩

/-- Settles O4: each row asks for fields of the word, so the claim is checked family by family; only in family 8 do the
remaining nibbles need counting. -/
theorem unmatchedWordsAreTheNoOpSpace : Obligations.UnmatchedWordsAreTheNoOpSpace := by
  refine ⟨fun w => ?_, fun w => decodeWord_sys⟩
  rw [decodeWord_eq_none_iff]
  simp (disch := decide) only [rows, List.forall_mem_append, List.forall_mem_cons, Row.fits, beq_iff_eq,
    and_ones_eq_iff, and_op_eq_iff, and_op_n_eq_iff, and_op_nn_eq_iff]
  generalize opOf w = op, nOf w = n, nnOf w = nn, nnnOf w = nnn
  rcases nibble_cases op with rfl | rfl | rfl | rfl | rfl | rfl | rfl | rfl | rfl | rfl | rfl | rfl | rfl | rfl | rfl |
    rfl <;> simp [opOf, nOf, nnOf]
  revert n
  decide

end Sys2Proof
end

section
/-! PROOFS. Rules over all instructions: what each may write (spec/10_state.md), that each answers a next state
(spec/60_exceptions.md R209), and that only RND reads the host's side (R222). -/

namespace Sys2Proof.Machine

open Sys2Proof.Safety

/-! ### What each instruction may write -/

/-- The registers an instruction writes, VF as a flag among them (R22, R38). -/
def writesReg : Instr → Reg → Prop
  | .ldImm x _, k | .addImm x _, k | .rnd x _, k | .ldReg x _, k | .orReg x _, k | .andReg x _, k | .xorReg x _, k
  | .ldVxDt x, k => k = x
  | .addReg x _, k | .subReg x _, k | .subnReg x _, k | .shr x _, k | .shl x _, k => k = x ∨ k = 15
  | .drw _ _ _, k => k = 15
  | .loadRegs x, k => k ≤ x
  | _, _ => False

/-- What an instruction that does not fault may change besides pc: the table of R25, R28 to R36 and R50. -/
def mayChange (i : Instr) : Changes where
  regs := writesReg i
  bytes _ := (∃ x, i = .ldBVx x) ∨ ∃ x, i = .storeRegs x
  index := (∃ nnn, i = .ldI nnn) ∨ (∃ x, i = .addIVx x) ∨ ∃ x, i = .ldFVx x
  stack := (∃ nnn, i = .call nnn) ∨ i = .ret
  dt := ∃ x, i = .ldDtVx x
  st := ∃ x, i = .ldStVx x
  display := i = .cls ∨ ∃ x y n, i = .drw x y n
  mode := ∃ x, i = .ldVxK x
  host := ∃ x nn, i = .rnd x nn

/-- An execution from `s` answers a next state: a fault raised on `s`, or a state that differs from `s` in pc and the
named changes only. -/
def EndsWithin (c : Changes) (s : State) (r : Result) : Prop :=
  ∃ t, r = .next t ∧ (Frame c s t ∨ ∃ cause a, t = raise cause a s)

theorem endsWithin_raise {c : Changes} (cause : FaultCause) (a : Nat) (s : State) :
    EndsWithin c s (.next (raise cause a s)) :=
  ⟨_, rfl, .inr ⟨cause, a, rfl⟩⟩

/-- A write of pc at the end is within any changes. -/
theorem endsWithin_setPc {c : Changes} {s t : State} {a : Word} {r : Result} (hr : r = .next (setPc a t))
    (h : Frame c s t) : EndsWithin c s r :=
  ⟨_, hr, .inl (setPc_frame h a)⟩

theorem setStack_frame {c : Changes} (hc : c.stack) (stack : Vector Word 24) (sp : Fin 25) (s : State) :
    Frame c s { s with stack := stack, sp := sp } := by
  constructor
  case stack => exact (absurd hc ·)
  all_goals simp [readV_eq]

theorem setHost_frame {c : Changes} (hc : c.host) (h : HostSide) (s : State) : Frame c s (setHost h s) := by
  constructor
  case host => exact (absurd hc ·)
  all_goals simp

/-- What RET can answer, where the depth does not matter (R110). -/
theorem exec_ret_cases (s : State) :
    exec .ret s = .next (raise .stackUnderflow 0 s) ∨
    ∃ a sp, exec .ret s = .next (setPc a { s with sp := sp }) := by
  rcases hsp : s.sp.val with _ | n
  · exact .inl (exec_ret_empty hsp)
  · exact .inr ⟨_, _, exec_ret_pops (by omega) hsp⟩

/-- What CALL can answer (R112). -/
theorem exec_call_cases (nnn : Addr12) (s : State) :
    exec (.call nnn) s = .next (raise .stackOverflow 0 s) ∨
    ∃ h : s.sp.val < 24, exec (.call nnn) s = .next (setPc (widenAddr nnn)
      { s with stack := s.stack.set s.sp.val (s.pc + 2) h, sp := ⟨s.sp.val + 1, Nat.succ_lt_succ h⟩ }) := by
  rcases (Nat.le_of_lt_succ s.sp.isLt).lt_or_eq with hroom | hfull
  · exact .inr ⟨hroom, exec_call_pushes nnn hroom⟩
  · exact .inl (exec_call_full nnn hfull)

theorem execRet_endsWithin (s : State) : EndsWithin (mayChange .ret) s (exec .ret s) := by
  rcases exec_ret_cases s with hexec | ⟨a, sp, hexec⟩ <;> rw [hexec]
  · exact endsWithin_raise ..
  · exact endsWithin_setPc rfl (setStack_frame (Or.inr rfl) s.stack sp s)

theorem execCall_endsWithin (nnn : Addr12) (s : State) :
    EndsWithin (mayChange (.call nnn)) s (exec (.call nnn) s) := by
  rcases exec_call_cases nnn s with hexec | ⟨hroom, hexec⟩ <;> rw [hexec]
  · exact endsWithin_raise ..
  · exact endsWithin_setPc rfl (setStack_frame (Or.inl ⟨nnn, rfl⟩) _ _ s)

theorem execDrw_endsWithin (x y : Reg) (n : Nibble) (s : State) :
    EndsWithin (mayChange (.drw x y n)) s (exec (.drw x y n) s) := by
  rcases exec_drw_cases x y n s with ⟨d, f, hexec, -⟩ | ⟨k, -, hexec, -⟩
  · have hdisplay := setDisplay_frame (c := mayChange (.drw x y n)) (Or.inr ⟨x, y, n, rfl⟩) d true s
    exact endsWithin_setPc hexec (writeV_frame hdisplay rfl f)
  · rw [hexec]
    exact endsWithin_raise ..

theorem execLoadRegs_endsWithin (x : Reg) (s : State) :
    EndsWithin (mayChange (.loadRegs x)) s (exec (.loadRegs x) s) := by
  rcases exec_loadRegs_cases x s with ⟨hexec, -⟩ | ⟨k, -, hexec, -⟩ <;> rw [hexec]
  · exact endsWithin_setPc rfl (setRegs_frame fun k hk => (getElem_loadedRegs x k s).trans (if_neg hk))
  · exact endsWithin_raise ..

theorem storeAtI_endsWithin {c : Changes} (hc : ∀ a, c.bytes a) (bs : List Byte) (s : State) :
    EndsWithin c s (storeAtI bs s) := by
  rcases storeAtI_cases bs s with ⟨m, hstore, -⟩ | ⟨k, -, hstore, -⟩ <;> rw [hstore]
  · exact endsWithin_setPc rfl (setMem_frame fun a ha => absurd (hc a) ha)
  · exact endsWithin_raise ..

/-- Every instruction answers a next state within its row of `mayChange`, or raises. -/
theorem exec_endsWithin (i : Instr) (s : State) : EndsWithin (mayChange i) s (exec i s) := by
  cases i with
  | cls => exact endsWithin_setPc rfl (setDisplay_frame (Or.inl rfl) _ _ s)
  | drw x y n => exact execDrw_endsWithin x y n s
  | ret => exact execRet_endsWithin s
  | call nnn => exact execCall_endsWithin nnn s
  | sys | jp | jpV0 | seImm | sneImm | seReg | sneReg | skp | sknp => exact endsWithin_setPc rfl (Frame.refl _ s)
  | ldImm | addImm | ldReg | orReg | andReg | xorReg | ldVxDt =>
    exact endsWithin_setPc rfl (writeV_frame (Frame.refl _ s) rfl _)
  | addReg | subReg | subnReg =>
    exact endsWithin_setPc rfl (writeV_frame (writeV_frame (Frame.refl _ s) (Or.inl rfl) _) (Or.inr rfl) _)
  | shr | shl =>
    exact endsWithin_setPc rfl (writeV_frame (writeV_frame (Frame.refl _ s) (Or.inr rfl) _) (Or.inl rfl) _)
  | rnd x nn =>
    exact endsWithin_setPc rfl
      (writeV_frame (setHost_frame (show (mayChange (.rnd x nn)).host from ⟨x, nn, rfl⟩) _ s) rfl _)
  | ldI nnn => exact endsWithin_setPc rfl (setI_frame (Or.inl ⟨nnn, rfl⟩) _ s)
  | addIVx x => exact endsWithin_setPc rfl (setI_frame (Or.inr (Or.inl ⟨x, rfl⟩)) _ s)
  | ldFVx x => exact endsWithin_setPc rfl (setI_frame (Or.inr (Or.inr ⟨x, rfl⟩)) _ s)
  | ldDtVx x => exact endsWithin_setPc rfl (setDt_frame (show (mayChange (.ldDtVx x)).dt from ⟨x, rfl⟩) _ s)
  | ldStVx x => exact endsWithin_setPc rfl (setSt_frame (show (mayChange (.ldStVx x)).st from ⟨x, rfl⟩) _ s)
  | ldVxK x =>
    exact ⟨_, rfl, .inl (setMode_frame (Frame.refl _ s) (show (mayChange (.ldVxK x)).mode from ⟨x, rfl⟩) _)⟩
  | ldBVx x => exact storeAtI_endsWithin (fun _ => Or.inl ⟨x, rfl⟩) _ s
  | storeRegs x => exact storeAtI_endsWithin (fun _ => Or.inr ⟨x, rfl⟩) _ s
  | loadRegs x => exact execLoadRegs_endsWithin x s

/-- The two ways an instruction can end. -/
theorem exec_cases {i : Instr} {s t : State} (h : exec i s = .next t) :
    Frame (mayChange i) s t ∨ ∃ cause a, t = raise cause a s := by
  obtain ⟨u, hu, hend⟩ := exec_endsWithin i s
  cases hu.symm.trans h
  exact hend

/-- Settles O50: a fault changes only the mode and the record, and any other end is within `mayChange`. -/
theorem onlyTheNamedInstructionsWrite : Obligations.OnlyTheNamedInstructionsWrite := by
  intro i s t h
  rcases exec_cases h with hframe | ⟨cause, a, rfl⟩
  · refine ⟨not_imp_comm.mp hframe.index, fun hstack => ?_, fun ⟨a, ha⟩ => ?_, fun hdisplay => ?_,
      not_imp_comm.mp hframe.dt, not_imp_comm.mp hframe.st, fun hmode => .inr (not_imp_comm.mp hframe.mode hmode),
      hframe.keys, hframe.lastTick, not_imp_comm.mp hframe.host⟩
    · exact not_imp_comm.mp hframe.stack (by tauto)
    · exact not_imp_comm.mp (hframe.bytes a) ha
    · exact not_imp_comm.mp hframe.display (by tauto)
  · simp

/-- Which instructions write VF. -/
theorem writesReg_vf {i : Instr} (h : writesReg i 15) :
    (∃ x y, i = .addReg x y ∨ i = .subReg x y ∨ i = .shr x y ∨ i = .subnReg x y ∨ i = .shl x y) ∨
    (∃ x y n, i = .drw x y n) ∨
    (∃ nn, i = .ldImm 15 nn ∨ i = .addImm 15 nn ∨ i = .rnd 15 nn) ∨
    (∃ y, i = .ldReg 15 y ∨ i = .orReg 15 y ∨ i = .andReg 15 y ∨ i = .xorReg 15 y) ∨
    i = .ldVxDt 15 ∨ i = .loadRegs 15 := by
  cases i with
  | loadRegs x =>
    obtain rfl : x = 15 := le_antisymm (Fin.le_last x) h
    simp
  | _ => simp [writesReg, eq_comm] at h ⊢ <;> exact h

/-- Settles O51: VF is among the registers that the instruction writes. -/
theorem vfChangesOnlyByFlagOrDestination : Obligations.VfChangesOnlyByFlagOrDestination := by
  intro i s t h hvf
  rcases exec_cases h with hframe | ⟨cause, a, rfl⟩
  · exact writesReg_vf (not_imp_comm.mp (hframe.regs 15) hvf)
  · exact absurd (readV_raise ..) hvf

/-- Settles O52: `exec_endsWithin` names the next state. -/
theorem everyInstructionAnswersANextState : Obligations.EveryInstructionAnswersANextState := fun i s => by
  obtain ⟨t, ht, -⟩ := exec_endsWithin i s
  exact ⟨t, ht⟩

/-! ### The host's side (R222) -/

/-- A result with the host's side replaced. -/
def withHost (h : HostSide) : Result → Result
  | .next t => .next (setHost h t)
  | .fault r => .fault r
  | .refused r => .refused r

theorem effectiveAddr_setHost (h : HostSide) (s : State) (k : Nat) :
    effectiveAddr (setHost h s) k = effectiveAddr s k := rfl

theorem storeAtI_setHost (bs : List Byte) (h : HostSide) (s : State) :
    storeAtI bs (setHost h s) = withHost h (storeAtI bs s) := by
  unfold storeAtI
  rw [setHost_mem, effectiveAddr_setHost]
  cases writeBytes s.mem (effectiveAddr s 0) bs <;> rfl

/-- Every instruction but RND commutes with a change of the host's side; the arms not named here have one answer. -/
theorem exec_setHost {i : Instr} (hi : ∀ x nn, i ≠ .rnd x nn) (h : HostSide) (s : State) :
    exec i (setHost h s) = withHost h (exec i s) := by
  cases i with
  | rnd x nn => exact absurd rfl (hi x nn)
  | ret =>
    rcases hsp : s.sp.val with _ | n
    · rw [exec_ret_empty hsp, exec_ret_empty (s := setHost h s) hsp]
      rfl
    · rw [exec_ret_pops (by omega) hsp, exec_ret_pops (s := setHost h s) (by omega) hsp]
      rfl
  | call nnn =>
    rcases (Nat.le_of_lt_succ s.sp.isLt).lt_or_eq with hroom | hfull
    · rw [exec_call_pushes nnn hroom, exec_call_pushes nnn (s := setHost h s) hroom]
      rfl
    · rw [exec_call_full nnn hfull, exec_call_full nnn (s := setHost h s) hfull]
      rfl
  | drw x y n =>
    simp only [exec, execDrw]
    rw [setHost_mem, effectiveAddr_setHost]
    cases readBytes s.mem (effectiveAddr s 0) n.toNat <;> rfl
  | loadRegs x =>
    simp only [exec, execLoadRegs]
    rw [setHost_mem, effectiveAddr_setHost]
    cases readBytes s.mem (effectiveAddr s 0) (x.val + 1) <;> rfl
  | ldBVx x => exact storeAtI_setHost ..
  | storeRegs x => exact storeAtI_setHost ..
  | _ => rfl

/-- Settles O53: by `exec_setHost` the host's side of the answer is the one given. -/
theorem hostSideInfluencesOnlyRnd : Obligations.HostSideInfluencesOnlyRnd := by
  intro i s t h hi ht
  rw [exec_setHost hi, ht, withHost]

/-! ### The timers (R213) -/

theorem execute_answers (s : State) : ∃ t, execute s = .next t := by
  rcases execute_cases s with ⟨a, -, hraise⟩ | ⟨-, i, -, hexec⟩ | ⟨-, -, hnop⟩
  · exact ⟨_, hraise⟩
  · rw [hexec]
    exact everyInstructionAnswersANextState i s
  · exact ⟨_, hnop⟩

/-- Phases 2 and 3 of a running machine (R100). -/
theorem phases23_of_execute {now : Nat} {s t : State} (hrun : s.mode = .running) (h : execute s = .next t) :
    phases23 now s = .next (phase3 now t) := by
  rw [phases23_running hrun, h]

/-- Where neither FX15 nor FX18 runs and nothing faults, an execution leaves the timers alone. -/
theorem execute_keeps_timers {s t : State} (h : execute s = .next t) (ht : t.mode ≠ .faulted)
    (hword : ∀ x, decodeWord (wordAtPc s) ≠ some (.ldDtVx x) ∧ decodeWord (wordAtPc s) ≠ some (.ldStVx x)) :
    t.dt = s.dt ∧ t.st = s.st ∧ t.lastTick = s.lastTick := by
  rcases execute_cases s with ⟨a, -, hraise⟩ | ⟨-, i, hi, hexec⟩ | ⟨-, -, hnop⟩
  · cases hraise.symm.trans h
    exact absurd rfl ht
  · rcases exec_cases (hexec.symm.trans h) with hframe | ⟨cause, a, rfl⟩
    · refine ⟨hframe.dt ?_, hframe.st ?_, hframe.lastTick⟩
      · rintro ⟨x, rfl⟩
        exact (hword x).1 hi
      · rintro ⟨x, rfl⟩
        exact (hword x).2 hi
    · exact absurd rfl ht
  · cases hnop.symm.trans h
    exact ⟨rfl, rfl, rfl⟩

/-- The timer update reads the timers and `last_tick` alone (R211). -/
theorem timerUpdate_congr {now : Nat} {s t : State} (hdt : t.dt = s.dt) (hst : t.st = s.st)
    (htick : t.lastTick = s.lastTick) :
    (timerUpdate now t).dt = (timerUpdate now s).dt ∧ (timerUpdate now t).st = (timerUpdate now s).st ∧
      (timerUpdate now t).lastTick = (timerUpdate now s).lastTick := by
  simp only [timerUpdate_dt, timerUpdate_st, timerUpdate_lastTick, hdt, hst, htick, and_self]

/-- Settles O35: phase 3 is the timer update, after an execution that leaves the timers alone or after none. -/
theorem timersAreDecoupledFromInstructions : Obligations.TimersAreDecoupledFromInstructions := by
  intro now s t hs h ht hword
  by_cases hrun : s.mode = .running
  · obtain ⟨u, hu⟩ := execute_answers s
    cases (phases23_of_execute hrun hu).symm.trans h
    rw [phase3_mode] at ht
    obtain ⟨hdt, hst, htick⟩ := execute_keeps_timers hu ht hword
    rw [phase3_eq, if_neg ht]
    exact timerUpdate_congr hdt hst htick
  · rw [phases23_idle hrun, phase3_eq, if_neg hs] at h
    cases h
    exact ⟨rfl, rfl, rfl⟩

end Sys2Proof.Machine
end

section
/-! PROOFS. The machine's invariant (spec/10_state.md, spec/60_exceptions.md R201, R202): it holds after reset, and
every phase of a cycle and every move of the host keeps it. -/

namespace Sys2Proof.Machine

open Sys2Proof.Safety

/-! ### Reset -/

theorem resetAt_invariant (now : Nat) (h : HostSide) : Invariant (resetAt now h) where
  memory := wf_reset
  pcBound := show (0x200#16).toNat ≤ 0x10FE by decide
  stackBound := fun k => by simp [resetAt, State.reset]
  waitBound := nofun
  faultedIff := iff_of_false nofun (· rfl)
  faultPc := nofun
  noFault := fun _ => ⟨rfl, rfl⟩
  stackFault := fun _ => rfl
  memoryFault := nofun
  clockOrder := le_refl now

/-- Settles O58: `State.reset` is itself a state after a reset. -/
theorem resetMeetsTheInvariant : Obligations.ResetMeetsTheInvariant :=
  ⟨resetAt_invariant, resetAt_invariant 0 State.reset.host⟩

/-! ### The host's side, the events, the timers and the loads -/

/-- The clock may move on. -/
theorem setHost_invariant {s : State} {h : HostSide} (hs : Invariant s) (hclock : s.host.clock ≤ h.clock) :
    Invariant (setHost h s) :=
  { hs with clockOrder := hs.clockOrder.trans hclock }

/-- A write of memory that keeps the canonical form. -/
theorem setMem_invariant {s : State} {m : Memory} (hs : Invariant s) (hm : m.wf) : Invariant (setMem m s) :=
  { hs with memory := hm }

/-- Outside Faulted, with the record unchanged, the invariant is about memory, pc, the stack and the clock. -/
theorem invariant_of_live {s t : State} (hs : Invariant s) (hlive : s.mode ≠ .faulted) (htlive : t.mode ≠ .faulted)
    (hfault : t.fault = s.fault) (hmem : t.mem.wf) (hpc : t.pc.toNat ≤ 0x10FE)
    (hstack : ∀ k : Fin 24, t.stack[k.val].toNat ≤ 0x1000) (hwait : ∀ r, t.mode = .awaitingKey r → t.pc.toNat ≤ 0xFFE)
    (hclock : t.lastTick ≤ t.host.clock) : Invariant t where
  memory := hmem
  pcBound := hpc
  stackBound := hstack
  waitBound := hwait
  faultedIff := iff_of_false htlive fun hcause => hlive (hs.faultedIff.mpr (hfault ▸ hcause))
  faultPc := (absurd · htlive)
  noFault := fun _ => hfault ▸ hs.noFault hlive
  stackFault := hfault ▸ hs.stackFault
  memoryFault := hfault ▸ hs.memoryFault
  clockOrder := hclock

/-- A delivery moves pc from a fetched FX0A to at most 0x1000 (R216). -/
theorem applyEvent_deliverKey_invariant {s : State} (hs : Invariant s) (k : Key) :
    Invariant (applyEvent (.deliverKey k) s) := by
  by_cases hwait : ∃ r, s.mode = .awaitingKey r
  · obtain ⟨r, hr⟩ := hwait
    have hlive : s.mode ≠ .faulted := by simp [hr]
    rw [applyEvent_deliverKey hr]
    exact invariant_of_live hs hlive nofun rfl hs.memory ((toNat_add_two_le (hs.waitBound r hr)).trans (by decide))
      hs.stackBound nofun hs.clockOrder
  · rw [applyEvent_deliverKey_of_not_awaiting (not_exists.mp hwait)]
    exact hs

theorem applyEvent_invariant {s : State} (hs : Invariant s) (e : HostEvent) : Invariant (applyEvent e s) := by
  by_cases hlive : s.mode = .faulted
  · rw [applyEvent_faulted hlive]
    exact hs
  · cases e with
    | deliverKey k => exact applyEvent_deliverKey_invariant hs k
    | keyDown k =>
      obtain ⟨hdown, -, -⟩ := applyEvent_of_not_faulted hlive k
      exact hdown ▸ { hs with }
    | keyUp k =>
      obtain ⟨-, hup, -⟩ := applyEvent_of_not_faulted hlive k
      exact hup ▸ { hs with }
    | ackDisplay =>
      obtain ⟨-, -, hack⟩ := applyEvent_of_not_faulted hlive 0
      exact hack ▸ { hs with }

theorem applyEvents_invariant {s : State} (hs : Invariant s) (events : List HostEvent) :
    Invariant (applyEvents events s) := by
  induction events generalizing s with
  | nil => exact hs
  | cons e es ih => exact ih (applyEvent_invariant hs e)

/-- No event touches the host's side. -/
@[simp] theorem applyEvent_host (e : HostEvent) (s : State) : (applyEvent e s).host = s.host := by
  cases hm : s.mode <;> cases e <;> simp [applyEvent, keyDown, keyUp, deliverKey, ackDisplay, hm]

@[simp] theorem applyEvents_host (events : List HostEvent) (s : State) : (applyEvents events s).host = s.host := by
  induction events generalizing s with
  | nil => rfl
  | cons e es ih => exact (ih _).trans (applyEvent_host e s)

/-- Phase 3 at a `now` that the host has supplied (R211, R212). -/
theorem phase3_invariant {s : State} {now : Nat} (hs : Invariant s) (hnow : now ≤ s.host.clock) :
    Invariant (phase3 now s) := by
  rw [phase3_eq]
  split
  · exact hs
  · rcases timerUpdate_cases now s with ⟨-, hsame⟩ | ⟨-, htick⟩
    · rw [hsame]
      exact hs
    · rw [htick]
      exact { hs with clockOrder := hnow }

theorem loadImage_invariant {base : Nat} {image : List Byte} {s : State} (hs : Invariant s)
    (hfit : base + image.length ≤ 4096) : Invariant (loadImage base image s) := by
  obtain ⟨-, -, hwf⟩ := loadImage_bytes (s := s) hfit
  rw [loadImage_eq]
  exact setMem_invariant hs (hwf hs.memory)

/-! ### Faults -/

/-- What a fault records fits its cause: address 0 for a stack fault, one outside the address space for a memory fault
(R201). -/
structure RecordFits (c : FaultCause) (a : Nat) : Prop where
  cause : c ≠ .none
  stack : c = .stackOverflow ∨ c = .stackUnderflow → a = 0
  memory : c = .fetchOutOfRange ∨ c = .readOutOfRange ∨ c = .writeOutOfRange → 0xFFF < a

theorem recordFits_of_raises {i : Instr} {s : State} {c : FaultCause} {a : Nat} (h : Raises i s c a) :
    RecordFits c a := by
  cases i with
  | call | ret =>
    obtain ⟨rfl, -, rfl⟩ := h
    exact ⟨nofun, fun _ => rfl, nofun⟩
  | drw | loadRegs | ldBVx | storeRegs =>
    obtain ⟨rfl, -, hout, -⟩ := h
    exact ⟨nofun, nofun, fun _ => hout⟩
  | _ => exact h.elim

/-- Fault entry keeps the invariant. `Raised` compares what memory reads as, so that memory is the same data is asked
for apart. -/
theorem invariant_of_raised {s t : State} {c : FaultCause} {a : Nat} (hs : Invariant s) (h : Raised c a s t)
    (hmem : t.mem = s.mem) (hfit : RecordFits c a) : Invariant t := by
  obtain ⟨hstack, -⟩ := h.frame.stack id
  exact {
    memory := hmem ▸ hs.memory
    pcBound := h.pc ▸ hs.pcBound
    stackBound := hstack ▸ hs.stackBound
    waitBound := fun r hr => nomatch h.mode.symm.trans hr
    faultedIff := iff_of_true h.mode (h.cause ▸ hfit.cause)
    faultPc := fun _ => h.savedPc.trans h.pc.symm
    noFault := (absurd h.mode ·)
    stackFault := fun hc => BitVec.eq_of_toNat_eq (h.addr.trans (hfit.stack (h.cause ▸ hc)))
    memoryFault := fun hc => h.addr ▸ hfit.memory (h.cause ▸ hc)
    clockOrder := by rw [h.frame.lastTick, h.frame.host id]; exact hs.clockOrder }

/-! ### The instructions -/

theorem storeAtI_keeps_wf {bs : List Byte} {s t : State} (h : storeAtI bs s = .next t) (hwf : s.mem.wf) :
    t.mem.wf := by
  rcases storeAtI_cases bs s with ⟨m, hstore, -, -, -, hm⟩ | ⟨k, -, hstore, -⟩ <;> cases hstore.symm.trans h
  · exact hm hwf
  · exact hwf

/-- Every instruction keeps memory canonical: only a store writes it (R50). -/
theorem exec_keeps_wf {i : Instr} {s t : State} (h : exec i s = .next t) (hwf : s.mem.wf) : t.mem.wf := by
  cases i with
  | ldBVx | storeRegs => exact storeAtI_keeps_wf h hwf
  | drw x y n =>
    rcases exec_drw_cases x y n s with ⟨d, f, hexec, -⟩ | ⟨k, -, hexec, -⟩ <;> cases hexec.symm.trans h <;>
      exact hwf
  | loadRegs x =>
    rcases exec_loadRegs_cases x s with ⟨hexec, -⟩ | ⟨k, -, hexec, -⟩ <;> cases hexec.symm.trans h <;>
      exact hwf
  | ret => rcases exec_ret_cases s with hexec | ⟨a, sp, hexec⟩ <;> cases hexec.symm.trans h <;> exact hwf
  | call nnn => rcases exec_call_cases nnn s with hexec | ⟨hroom, hexec⟩ <;> cases hexec.symm.trans h <;> exact hwf
  | _ =>
    cases h
    exact hwf

/-- Every instruction keeps the bound on return addresses: RET clears no entry, and CALL writes A + 2 (R110, R112). -/
theorem exec_keeps_stackBound {i : Instr} {s t : State} (h : exec i s = .next t) (hpc : s.pc.toNat ≤ 0xFFE)
    (hs : ∀ k : Fin 24, s.stack[k.val].toNat ≤ 0x1000) (k : Fin 24) : t.stack[k.val].toNat ≤ 0x1000 := by
  cases i with
  | call nnn =>
    rcases exec_call_cases nnn s with hexec | ⟨hroom, hexec⟩ <;> cases hexec.symm.trans h
    · exact hs k
    · simp only [setPc_stack, Vector.getElem_set]
      split
      · exact toNat_add_two_le hpc
      · exact hs k
  | ret => rcases exec_ret_cases s with hexec | ⟨a, sp, hexec⟩ <;> cases hexec.symm.trans h <;> exact hs k
  | _ =>
    rcases exec_cases h with hframe | ⟨cause, a, rfl⟩
    · obtain ⟨hstack, -⟩ := hframe.stack (by simp [mayChange])
      exact hstack ▸ hs k
    · exact hs k

theorem toNat_add_four_le {a : Word} (ha : a.toNat ≤ 0xFFE) : (a + 4).toNat ≤ 0x1002 := by
  bv_omega

/-- The largest value a rule writes to pc is that of BNNN (R27). -/
theorem toNat_pcAfter_le {i : Instr} {s : State} (hpc : s.pc.toNat ≤ 0xFFE)
    (hstack : ∀ k : Fin 24, s.stack[k.val].toNat ≤ 0x1000) : (pcAfter i s).toNat ≤ 0x10FE := by
  have h2 := toNat_add_two_le hpc
  have h4 := toNat_add_four_le hpc
  cases i with
  | jp nnn | call nnn =>
    have := nnn.isLt
    simp only [pcAfter, BitVec.toNat_ofNat]
    omega
  | jpV0 nnn =>
    have := nnn.isLt
    have := (readV 0 s).isLt
    simp only [pcAfter, BitVec.toNat_ofNat]
    omega
  | ret =>
    simp only [pcAfter]
    split
    · next hsp => exact (hstack ⟨s.sp.val - 1, by omega⟩).trans (by decide)
    · omega
  | seImm | sneImm | seReg | sneReg | skp | sknp =>
    simp only [pcAfter]
    split <;> omega
  | ldVxK => exact hpc.trans (by decide)
  | _ => exact h2.trans (by decide)

theorem afterDraw_clock (h : HostSide) : (afterDraw h).clock = h.clock := by
  unfold afterDraw
  split <;> rfl

/-- No instruction touches the clock: of the host's side RND writes only its source (R222). -/
theorem exec_clock {i : Instr} {s t : State} (h : exec i s = .next t) : t.host.clock = s.host.clock := by
  rcases exec_cases h with hframe | ⟨cause, a, rfl⟩
  · by_cases hrnd : ∃ x nn, i = .rnd x nn
    · obtain ⟨x, nn, rfl⟩ := hrnd
      cases h
      exact afterDraw_clock s.host
    · rw [hframe.host hrnd]
  · rfl

/-- Only FX0A changes the mode without a fault, and it changes nothing else (R184). -/
theorem exec_mode {i : Instr} {s t : State} (h : exec i s = .next t) :
    Frame (mayChange i) s t ∧ (t.mode = s.mode ∨ ∃ x, t = setMode (.awaitingKey x) s) ∨
      ∃ cause a, t = raise cause a s := by
  refine (exec_cases h).imp_left fun hframe => ⟨hframe, ?_⟩
  by_cases hwait : ∃ x, i = .ldVxK x
  · obtain ⟨x, rfl⟩ := hwait
    cases h
    exact .inr ⟨x, rfl⟩
  · exact .inl (hframe.mode hwait)

/-- An instruction that runs where it was fetched keeps the invariant. -/
theorem exec_invariant {i : Instr} {s t : State} (hs : Invariant s) (hrun : s.mode = .running)
    (hpc : s.pc.toNat ≤ 0xFFE) (h : exec i s = .next t) : Invariant t := by
  have hlive : s.mode ≠ .faulted := by simp [hrun]
  rcases exec_mode h with ⟨hframe, hmode⟩ | ⟨cause, a, rfl⟩
  · have htlive : t.mode ≠ .faulted := by
      rcases hmode with hmode | ⟨x, rfl⟩
      · rwa [hmode]
      · nofun
    have hwait : ∀ r, t.mode = .awaitingKey r → t.pc.toNat ≤ 0xFFE := by
      intro r hr
      rcases hmode with hmode | ⟨x, rfl⟩
      · exact nomatch (hmode.trans hrun).symm.trans hr
      · exact hpc
    obtain ⟨hends, -⟩ := pcAfterEveryInstruction
    obtain ⟨hpcAfter, -⟩ := hends i s t hlive h
    have hclock : t.lastTick ≤ t.host.clock := by
      rw [hframe.lastTick, exec_clock h]
      exact hs.clockOrder
    exact invariant_of_live hs hlive htlive (hframe.fault id) (exec_keeps_wf h hs.memory)
      (hpcAfter htlive ▸ toNat_pcAfter_le hpc hs.stackBound) (exec_keeps_stackBound h hpc hs.stackBound) hwait hclock
  · obtain ⟨hfaults, hraised⟩ := exec_faultsBy i hlive _ h
    obtain ⟨c, a, hr⟩ := hfaults.mp rfl
    exact invariant_of_raised hs (hraised c a hr) rfl (recordFits_of_raises hr)

/-! ### The cycle -/

/-- The address that a failed fetch raises fits in the record (R85, R201). -/
theorem raised_fetch (s : State) :
    Raised .fetchOutOfRange (max 0x1000 s.pc.toNat) s (raise .fetchOutOfRange (max 0x1000 s.pc.toNat) s) := by
  have hpc := s.pc.isLt
  exact raised_raise _ (by omega) s

theorem raise_fetch_invariant {s : State} (hs : Invariant s) :
    Invariant (raise .fetchOutOfRange (max 0x1000 s.pc.toNat) s) :=
  invariant_of_raised hs (raised_fetch s) rfl ⟨nofun, nofun, fun _ => lt_max_of_lt_left (by decide)⟩

/-- An execution keeps the invariant and the clock. -/
theorem execute_invariant {s t : State} (hs : Invariant s) (hrun : s.mode = .running) (h : execute s = .next t) :
    Invariant t ∧ t.host.clock = s.host.clock := by
  by_cases hpc : 0xFFF ≤ s.pc.toNat
  · cases (execute_without_room hpc).symm.trans h
    exact ⟨raise_fetch_invariant hs, rfl⟩
  · have hroom : s.pc.toNat ≤ 0xFFE := by omega
    rw [execute_with_room hroom] at h
    cases hw : decodeWord (wordAtPc s) with
    | some i =>
      rw [executeWord_row hw] at h
      exact ⟨exec_invariant hs hrun hroom h, exec_clock h⟩
    | none =>
      rw [executeWord_noRow hw, ← exec_sys 0] at h
      exact ⟨exec_invariant hs hrun hroom h, exec_clock h⟩

theorem phases23_invariant {now : Nat} {s t : State} (hs : Invariant s) (hnow : now ≤ s.host.clock)
    (h : phases23 now s = .next t) : Invariant t := by
  by_cases hrun : s.mode = .running
  · obtain ⟨u, hu⟩ := execute_answers s
    cases (phases23_of_execute hrun hu).symm.trans h
    obtain ⟨hinv, hclock⟩ := execute_invariant hs hrun hu
    exact phase3_invariant hinv (hclock ▸ hnow)
  · cases (phases23_idle hrun).symm.trans h
    exact phase3_invariant hs hnow

theorem coreCycle_invariant {events : List HostEvent} {now : Nat} {s t : State} (hs : Invariant s)
    (hnow : now ≤ s.host.clock) (h : coreCycle events now s = .next t) : Invariant t := by
  by_cases hlive : s.mode = .faulted
  · cases (coreCycle_faulted hlive).symm.trans h
    exact hs
  · rw [coreCycle_live hlive] at h
    exact phases23_invariant (applyEvents_invariant hs events) (by rwa [applyEvents_host]) h

/-! ### The host's moves -/

@[simp] theorem loadImage_host (base : Nat) (image : List Byte) (s : State) :
    (loadImage base image s).host = s.host := by
  rw [loadImage_eq, setMem_host]

theorem loadFontMove_invariant {s t : State} (hs : Invariant s) (h : loadFontMove s = .next t) : Invariant t := by
  rcases loadFontMove_cases s with hrefused | ⟨-, -, hload⟩
  · cases hrefused.symm.trans h
  · cases hload.symm.trans h
    have hfit : 0 + Config.font.length ≤ 4096 := by rw [length_font]; decide
    exact setHost_invariant (loadImage_invariant hs hfit) (by rw [loadImage_host])

theorem loadProgramMove_invariant {image : List Byte} {s t : State} (hs : Invariant s)
    (h : loadProgramMove image s = .next t) : Invariant t := by
  rcases loadProgramMove_cases image s with hrefused | ⟨-, -, hlen, hload⟩ | ⟨-, -, -, hload⟩
  · cases hrefused.symm.trans h
  · cases hload.symm.trans h
    exact setHost_invariant (loadImage_invariant hs (by omega)) (by rw [loadImage_host])
  · cases hload.symm.trans h
    exact setHost_invariant hs le_rfl

theorem runMove_invariant {mv : HostMove} {s t : State} (hs : Invariant s) (h : runMove mv s = .next t) :
    Invariant t := by
  cases mv with
  | cycle events elapsed =>
    rw [runMove_cycle] at h
    exact coreCycle_invariant (setHost_invariant hs (Nat.le_add_right ..)) (le_refl _) (cycleMove_next h)
  | reset now =>
    cases (runMove_reset now s).symm.trans h
    exact resetAt_invariant now s.host
  | loadFont =>
    rw [runMove_loadFont] at h
    exact loadFontMove_invariant hs h
  | loadProgram image =>
    rw [runMove_loadProgram] at h
    exact loadProgramMove_invariant hs h

theorem afterMove_clock (h : HostSide) : (afterMove h).clock = h.clock := by
  unfold afterMove
  split <;> rfl

/-- Settles O59: a step is a move of the host, and the clock stands still until the move. -/
theorem stepKeepsTheInvariant : Obligations.StepKeepsTheInvariant := fun s _ hs h =>
  runMove_invariant (setHost_invariant hs (afterMove_clock s.host).ge) h

end Sys2Proof.Machine
end

section
/-! PROOFS. The steps of the machine (spec/40_cycle.md R100, spec/60_exceptions.md R225): scheduled cycles, the idle
cycle, reset, the program load, and how a step can leave a key wait or Faulted. -/

namespace Sys2Proof.Machine

open Sys2Proof.Safety

/-! ### The scheduled cycle (R100) -/

/-- A step whose move is a cycle on an image that may run is that cycle (log 1). -/
theorem step_of_cycle {s : State} {events : List HostEvent} {elapsed : Nat} {rest : List HostMove}
    (hsched : s.host.schedule = .cycle events elapsed :: rest) (himage : s.host.image ≠ .rejected) :
    step s = coreCycle events (s.host.clock + elapsed) (cycleStart s rest elapsed) := by
  rw [step_of_schedule hsched, runMove_cycle, cycleMove_ok (by simpa using himage)]
  rfl

/-- Settles O46: the parts of a cycle are `coreCycle_faulted`, `phases23_idle` and `phases23_of_execute`. -/
theorem scheduledCycleIsTheCycle : Obligations.ScheduledCycleIsTheCycle := by
  refine ⟨fun _ _ _ _ => step_of_cycle, fun _ => rfl, fun _ _ _ => rfl, ?_⟩
  rintro events now s _ rfl
  refine ⟨coreCycle_faulted, fun hs hidle => ?_, fun hs hrun t ht => ?_⟩
  · rw [coreCycle_live hs, phases23_idle hidle, phase3_eq]
  · rw [coreCycle_live hs, phases23_of_execute hrun ht, phase3_eq]

/-- Two bytes decode to what their word decodes to (R55, R91). -/
theorem decodeWord_of_decode {hi lo : Byte} {i : Instr} (h : decode [hi, lo] = .ok (i, [])) :
    decodeWord (wordOfBytes hi lo) = some i := by
  cases hw : decodeWord (wordOfBytes hi lo) with
  | none => simp [decode, hw] at h
  | some j =>
    simp only [decode, hw, Except.ok.injEq, Prod.mk.injEq, and_true] at h
    rw [h]

/-- Settles O42: phase 2 executes the word at pc, or raises because there is no room for one. -/
theorem stepRunsTheDecodedInstruction : Obligations.StepRunsTheDecodedInstruction := by
  rintro s s1 events elapsed rest hsched himage hs hs1 hrun
  rw [step_cycle hsched himage hs, ← hs1]
  refine ⟨fun i hpc hi => ?_, fun hpc => ?_⟩
  · obtain ⟨t, ht⟩ := everyInstructionAnswersANextState i s1
    have hexecute : execute s1 = .next t := by
      rw [execute_with_room (by omega), wordAtPc, executeWord_row (decodeWord_of_decode hi), ht]
    rw [phases23_of_execute hrun hexecute, ht, phase3_eq]
  · rw [phases23_of_execute hrun (execute_without_room hpc), phase3_eq, if_pos (raise_mode ..)]
    exact ⟨_, rfl, raised_fetch s1⟩

/-- Settles O43: phase 2 executes the word at pc as NOP. -/
theorem stepOverUnmatchedWordIsNop : Obligations.StepOverUnmatchedWordIsNop := by
  intro s s1 events elapsed rest hsched himage hs hs1 hrun hpc hw
  have hexecute : execute s1 = .next (advance s1) := by
    rw [execute_with_room (by omega), executeWord_noRow hw]
  rw [step_cycle hsched himage hs, ← hs1, phases23_of_execute hrun hexecute, phase3_eq, if_neg (by simp [hrun])]
  rfl

/-- Settles O47: both steps are the same cycle on the same host's side. -/
theorem beyondTheScheduleIsAnIdleCycle : Obligations.BeyondTheScheduleIsAnIdleCycle := by
  intro s t hsched ht
  have htsched : t.host.schedule = [.cycle [] (Config.idleElapsed s.host.idle)] := by rw [ht, setHost_host]
  rw [step_of_empty hsched, step_of_schedule htsched, ht]
  rfl

/-! ### Reset (R42, R240) -/

theorem resetAt_values (now : Nat) (h : HostSide) : ResetValues now (resetAt now h) where
  mem := fun _ => rfl
  regs := fun k => by simp [readV_eq, resetAt, State.reset]
  index := rfl
  pc := rfl
  stack := fun k => by simp [resetAt, State.reset]
  sp := rfl
  dt := rfl
  st := rfl
  lastTick := rfl
  keys := fun _ => BitVec.getLsbD_zero
  pixels := fun r c => by simp [pixel, resetAt, State.reset]
  dirty := rfl
  mode := rfl
  cause := rfl
  faultPc := rfl
  faultAddr := rfl

/-- Settles O37: the move is `resetAt`, and `State.reset` is a state after it. -/
theorem resetSetsEveryElement : Obligations.ResetSetsEveryElement := by
  refine ⟨fun s now rest hsched => ?_, resetAt_values 0 State.reset.host⟩
  rw [step_of_schedule hsched, runMove_reset]
  exact ⟨_, rfl, resetAt_values now _, rfl⟩

/-! ### The loads (R59, R67, R223, R225) -/

/-- Outside the boot, or a second time, a load is refused (log 7). -/
theorem loadFontMove_late {s : State} (hlate : s.host.started = true ∨ s.host.fontLoaded = true) :
    loadFontMove s = .refused .loadOutsideBoot := by
  rw [loadFontMove, if_pos (by simpa using hlate)]

theorem loadProgramMove_late (image : List Byte) {s : State}
    (hlate : s.host.started = true ∨ s.host.image ≠ .notLoaded) :
    loadProgramMove image s = .refused .loadOutsideBoot := by
  rw [loadProgramMove, if_pos (by simpa using hlate)]

/-- Settles O40: both moves are late. -/
theorem loadsOutsideBootAreRefused : Obligations.LoadsOutsideBootAreRefused := by
  refine fun s rest => ⟨fun hsched hlate => ?_, fun image hsched hlate => ?_⟩ <;> rw [step_of_schedule hsched]
  · exact loadFontMove_late hlate
  · exact loadProgramMove_late image hlate

/-- The program load in the boot, for an image that fits (R59). -/
theorem loadProgramMove_fits {image : List Byte} {s : State} (hstart : s.host.started = false)
    (himage : s.host.image = .notLoaded) (hlen : image.length ≤ 3584) :
    loadProgramMove image s = .next (setHost { s.host with image := .loaded } (loadImage 0x200 image s)) := by
  simp [loadProgramMove, loadProgramBytes, hstart, himage, hlen]

/-- The program load in the boot, for an image that does not fit (R59). -/
theorem loadProgramMove_rejects {image : List Byte} {s : State} (hstart : s.host.started = false)
    (himage : s.host.image = .notLoaded) (hlen : 3584 < image.length) :
    loadProgramMove image s = .next (setHost { s.host with image := .rejected } s) := by
  simp [loadProgramMove, loadProgramBytes, hstart, himage, hlen.not_ge]

/-- A cycle on a rejected image has no move (R59, R242; log 7). -/
theorem step_rejected {s : State} {events : List HostEvent} {elapsed : Nat} {rest : List HostMove}
    (hsched : s.host.schedule = .cycle events elapsed :: rest) (himage : s.host.image = .rejected) :
    step s = .refused .runOnRejectedImage := by
  rw [step_of_schedule hsched, runMove_cycle, cycleMove, setHost_host, himage]

/-- Settles O39: the two answers of the load in the boot, by the image's length. -/
theorem programLoadCopiesOrRejects : Obligations.ProgramLoadCopiesOrRejects := by
  intro s image rest hsched hstart himage
  rw [step_of_schedule hsched, runMove_loadProgram]
  refine ⟨fun hlen => ?_, fun hlen => ?_⟩
  · have hfit : 0x200 + image.length ≤ 4096 := by omega
    rw [loadProgramMove_fits (by simpa using hstart) (by simpa using himage) hlen]
    exact ⟨_, rfl, rfl, loadImage_pc .., fun j hj => readByte_loadImage _ hfit hj,
      Frame.of_setHost trivial (loadImage_frame _ hfit fun _ hlo hhi => ⟨hlo, hhi⟩)⟩
  · rw [loadProgramMove_rejects (by simpa using hstart) (by simpa using himage) hlen]
    refine ⟨_, rfl, rfl, rfl, rfl, setHost_frame trivial _ s, ?_⟩
    rintro events elapsed more rfl
    exact step_rejected rfl rfl

/-! ### Leaving a key wait or Faulted (R204, R215) -/

/-- The loads leave the mode alone. -/
theorem loadFontMove_mode {s t : State} (h : loadFontMove s = .next t) : t.mode = s.mode := by
  rcases loadFontMove_cases s with hrefused | ⟨-, -, hload⟩
  · cases hrefused.symm.trans h
  · cases hload.symm.trans h
    rw [setHost_mode, loadImage_eq, setMem_mode]

theorem loadProgramMove_mode {image : List Byte} {s t : State} (h : loadProgramMove image s = .next t) :
    t.mode = s.mode := by
  rcases loadProgramMove_cases image s with hrefused | ⟨-, -, -, hload⟩ | ⟨-, -, -, hload⟩
  · cases hrefused.symm.trans h
  · cases hload.symm.trans h
    rw [setHost_mode, loadImage_eq, setMem_mode]
  · cases hload.symm.trans h
    rfl

/-- A cycle that answers a next state is one of CORE, on a later host's side. -/
theorem coreCycle_of_cycleMove {events : List HostEvent} {elapsed : Nat} {h : HostSide} {s t : State}
    (hcycle : cycleMove events elapsed (setHost h s) = .next t) :
    ∃ now host, coreCycle events now (setHost host s) = .next t :=
  ⟨_, cycleCalled elapsed h, cycleMove_next hcycle⟩

/-- What a step can do to the mode: a reset, or nothing, or a cycle of the scheduled events or, beyond the schedule, of
none. -/
theorem step_mode_cases {s t : State} (h : step s = .next t) :
    (∃ now rest, s.host.schedule = .reset now :: rest) ∨ t.mode = s.mode ∨
    ∃ events now host, coreCycle events now (setHost host s) = .next t ∧
      (events = [] ∨ ∃ elapsed rest, s.host.schedule = .cycle events elapsed :: rest) := by
  cases hsched : s.host.schedule with
  | nil =>
    rw [step_of_empty hsched, runMove_cycle] at h
    obtain ⟨now, host, hcycle⟩ := coreCycle_of_cycleMove h
    exact .inr (.inr ⟨[], now, host, hcycle, .inl rfl⟩)
  | cons mv rest =>
    rw [step_of_schedule hsched] at h
    cases mv with
    | cycle events elapsed =>
      obtain ⟨now, host, hcycle⟩ := coreCycle_of_cycleMove h
      exact .inr (.inr ⟨events, now, host, hcycle, .inr ⟨elapsed, rest, rfl⟩⟩)
    | reset now => exact .inl ⟨now, rest, rfl⟩
    | loadFont =>
      have hmode := loadFontMove_mode h
      exact .inr (.inl hmode)
    | loadProgram image =>
      have hmode := loadProgramMove_mode h
      exact .inr (.inl hmode)

/-- Settles O33: a cycle without a delivery leaves the wait going. -/
theorem keyWaitEndsOnlyOnDelivery : Obligations.KeyWaitEndsOnlyOnDelivery := by
  intro s t r hwait hstep hend
  rcases step_mode_cases hstep with hreset | hmode | ⟨events, now, host, hcycle, hevents⟩
  · exact .inr hreset
  · exact absurd (hmode.trans hwait) hend
  · by_cases hdeliver : ∃ k, .deliverKey k ∈ events
    · obtain ⟨k, hk⟩ := hdeliver
      obtain rfl | ⟨elapsed, rest, hsched⟩ := hevents
      · cases hk
      · exact .inl ⟨events, elapsed, rest, k, hsched, hk⟩
    · have hstays := applyEvents_awaiting (s := setHost host s) hwait (not_exists.mp hdeliver)
      cases (coreCycle_awaiting (by simp [hwait]) hstays).symm.trans hcycle
      exact absurd hstays hend

theorem soundOn_faulted {s : State} (h : s.mode = .faulted) : soundOn s = false := by
  simp [soundOn, h]

/-- Settles O45: of the moves only a reset is neither a cycle, which changes nothing, nor a load, which leaves the mode
alone. -/
theorem faultedUntilReset : Obligations.FaultedUntilReset := by
  refine ⟨fun s events now hs => ⟨coreCycle_faulted hs, ?_, rfl, ?_⟩, fun s events elapsed rest hs hsched himage => ?_,
    fun s t hs hstep hlive => ?_⟩
  · rw [soundOut, soundOn_faulted hs]
  · rw [statusOut, hs]
  · rw [step_of_cycle hsched himage, coreCycle_faulted (s := cycleStart s rest elapsed) hs]
    exact ⟨_, rfl⟩
  · rcases step_mode_cases hstep with hreset | hmode | ⟨events, now, host, hcycle, -⟩
    · exact hreset
    · exact absurd (hmode.trans hs) hlive
    · cases (coreCycle_faulted (s := setHost host s) hs).symm.trans hcycle
      exact absurd hs hlive

/-- Settles O60: the flag is read off the mode. -/
theorem outputsShowTheState : Obligations.OutputsShowTheState := by
  refine fun s => ⟨rfl, rfl, ?_⟩
  cases hm : s.mode <;> simp [waitingForKey, hm]

/-! ### The random byte (R141, R222) -/

/-- Settles O19: RND ANDs the byte with nn and leaves the source as `afterDraw` does. -/
theorem randomByteIsMasked : Obligations.RandomByteIsMasked := by
  intro x nn s
  refine ⟨toNat_wordXNN 0xC x nn, _, randomByte s.host, rfl, rfl, fun b => ?_,
    setPc_frame (writeV_frame (setHost_frame trivial _ s) rfl _) _, fun b bs hlist => ?_, fun hnone => ?_⟩
  · rw [readV_advance, readV_writeV_self, BitVec.getLsbD_and]
  · simp [randomByte, afterDraw, hlist]
  · simp [randomByte, afterDraw, hnone]

end Sys2Proof.Machine
end

section
/-! PROOFS. Memory (spec/20_memory.md): a write and its byte (R60, R62), the canonical form, stored instructions
(R65), and the word that `withFetchWord` places. -/

namespace Sys2Proof.Machine

open Sys2Proof.Safety

/-! ### The canonical form (R50; log 10) -/

/-- Settles O54: `readByte_writeByte` for the bytes, `wf_writeByte` for the form. -/
theorem writeChangesOnlyItsByte : Obligations.WriteChangesOnlyItsByte := fun m a w =>
  ⟨by rw [readByte_writeByte, if_pos rfl], fun b hb => by rw [readByte_writeByte, if_neg hb],
    fun hm ha => wf_writeByte hm ha w⟩

/-- Where addresses rise strictly, a listed cell is what its address reads as. -/
theorem readByte_of_mem {m : Memory} {c : Host.Cell} (hm : m.Pairwise (fun c d => c.1 < d.1)) (hc : c ∈ m) :
    readByte m c.1 = c.2 := by
  induction m with
  | nil => cases hc
  | cons d m ih =>
    obtain ⟨hd, hm⟩ := List.pairwise_cons.mp hm
    rw [readByte_cons]
    rcases List.mem_cons.mp hc with rfl | hc
    · rw [if_pos rfl]
    · rw [if_neg (hd c hc).ne, ih hm hc]

/-- A canonical memory lists exactly the bytes that do not read as 0x00. -/
theorem mem_iff_readByte {m : Memory} (hm : m.wf) (c : Host.Cell) : c ∈ m ↔ c.2 ≠ 0 ∧ readByte m c.1 = c.2 := by
  obtain ⟨hsorted, hcells⟩ := hm
  constructor
  · intro hc
    obtain ⟨-, hnonzero⟩ := hcells c hc
    exact ⟨hnonzero, readByte_of_mem hsorted hc⟩
  · rintro ⟨hnonzero, hread⟩
    by_contra hc
    refine hnonzero (hread.symm.trans (readByte_of_unlisted fun d hd haddr => hc ?_))
    have hsame : d = c := Prod.ext haddr (by rw [← readByte_of_mem hsorted hd, haddr, hread])
    exact hsame ▸ hd

/-- Settles O55: both memories list the same cells, in the order of their addresses. -/
theorem canonicalMemoriesAreExtensional : Obligations.CanonicalMemoriesAreExtensional := by
  intro m m' hm hm' hread
  have : Std.Antisymm (fun c d : Host.Cell => c.1 < d.1) := ⟨fun _ _ h h' => absurd h' h.asymm⟩
  have : Std.Irrefl (fun c d : Host.Cell => c.1 < d.1) := ⟨fun c => lt_irrefl c.1⟩
  refine hm.1.eq_of_mem_iff hm'.1 fun c => ?_
  rw [mem_iff_readByte hm, mem_iff_readByte hm', hread]

/-! ### Stored instructions (R65, R245) -/

/-- A store that fits is read back by the next fetch, byte by byte. -/
theorem fetch_after_store {i : Instr} {s : State} {bs : List Byte} {after : Nat → Byte}
    (hexec : exec i s = storeAtI bs s) (hfit : s.i.toNat + bs.length ≤ 0x1000) (hpc : (s.pc + 2).toNat ≤ 0xFFE)
    (hin : ∀ k, (h : k < bs.length) → after (s.i.toNat + k) = bs[k])
    (hout : ∀ a, ¬ (s.i.toNat ≤ a ∧ a < s.i.toNat + bs.length) → after a = readByte s.mem a) :
    ∃ t, exec i s = .next t ∧
      fetch t = .ok (wordOfBytes (after (s.pc + 2).toNat) (after ((s.pc + 2).toNat + 1))) := by
  obtain ⟨t, hstore, htpc, hread, hframe⟩ :=
    storeAtI_fits (c := { bytes := fun a => s.i.toNat ≤ a ∧ a < s.i.toNat + bs.length }) hfit
      fun _ hlo hhi => ⟨hlo, hhi⟩
  have hafter : ∀ a, readByte t.mem a = after a := by
    intro a
    by_cases ha : s.i.toNat ≤ a ∧ a < s.i.toNat + bs.length
    · obtain ⟨k, rfl⟩ := Nat.exists_eq_add_of_le ha.1
      rw [hread k (by omega), hin k (by omega)]
    · rw [hframe.bytes a ha, hout a ha]
  refine ⟨t, hexec.trans hstore, ?_⟩
  rw [← htpc, ← hafter, ← hafter]
  rcases fetch_cases t with ⟨-, hfetch⟩ | ⟨hend, -⟩ | ⟨hend, -⟩
  · exact hfetch
  all_goals
    rw [htpc] at hend
    omega

theorem byteAfterDigits_inside (x : Reg) (s : State) (k : Nat) (hk : k < (decimalDigits (readV x s)).length) :
    byteAfterDigits x s (s.i.toNat + k) = (decimalDigits (readV x s))[k] := by
  rw [length_decimalDigits] at hk
  interval_cases k <;> simp [byteAfterDigits, decimalDigits]

theorem byteAfterDigits_outside (x : Reg) (s : State) {a : Nat}
    (ha : ¬ (s.i.toNat ≤ a ∧ a < s.i.toNat + (decimalDigits (readV x s)).length)) :
    byteAfterDigits x s a = readByte s.mem a := by
  rw [length_decimalDigits] at ha
  rw [byteAfterDigits, if_neg (by omega), if_neg (by omega), if_neg (by omega)]

theorem byteAfterRegs_inside (x : Reg) (s : State) (k : Nat) (hk : k < (regsUpTo x s).length) :
    byteAfterRegs x s (s.i.toNat + k) = (regsUpTo x s)[k] := by
  have hle : k ≤ x.val := by
    rw [length_regsUpTo] at hk
    omega
  rw [getElem_regsUpTo, byteAfterRegs, dif_pos (by omega)]
  simp only [Nat.add_sub_cancel_left]

theorem byteAfterRegs_outside (x : Reg) (s : State) {a : Nat}
    (ha : ¬ (s.i.toNat ≤ a ∧ a < s.i.toNat + (regsUpTo x s).length)) :
    byteAfterRegs x s a = readByte s.mem a := by
  rw [length_regsUpTo] at ha
  rw [byteAfterRegs, dif_neg (by omega)]

/-- Settles O56: each of the two is one store of a run of bytes at I. -/
theorem storedInstructionIsFetchedNext : Obligations.StoredInstructionIsFetchedNext := by
  rintro x s _ rfl hpc
  have hdigits := length_decimalDigits (readV x s)
  have hregs := length_regsUpTo x s
  exact ⟨fun hfit => fetch_after_store (exec_ldBVx x s) (by omega) hpc (byteAfterDigits_inside x s)
      fun _ => byteAfterDigits_outside x s,
    fun hfit => fetch_after_store (exec_storeRegs x s) (by omega) hpc (byteAfterRegs_inside x s)
      fun _ => byteAfterRegs_outside x s⟩

/-! ### The word that is placed (log 15) -/

theorem tableWord_toNat (w : Word) : tableWord 16 w.toNat = w := by
  rw [tableWord, Nat.mod_eq_of_lt w.isLt, BitVec.ofNat_toNat, BitVec.setWidth_eq]

/-- A word is placed where both its bytes exist. -/
theorem toNat_placeAddr_le (s : State) : (placeAddr s).toNat ≤ 0xFFE := by
  unfold placeAddr
  split
  · decide
  · next hroom =>
    rw [outOfRange_iff] at hroom
    omega

theorem placeAddr_of_room {s : State} (hpc : s.pc.toNat ≤ 0xFFE) : placeAddr s = s.pc := by
  rw [placeAddr, if_neg (by rw [outOfRange_iff]; omega)]

theorem wordAtPc_placeWord (w : Word) (s : State) : wordAtPc (placeWord w s) = w := by
  simp [wordAtPc, placeWord, wordOfBytes_bytes]

/-- Placing a word writes its two bytes, the mode and the host's side, and pc. -/
theorem placeWord_frame (w : Word) (s : State) :
    Frame { bytes := fun a => a = (placeAddr s).toNat ∨ a = (placeAddr s).toNat + 1, mode := True, host := True } s
      (placeWord w s) := by
  refine Frame.of_setHost (h := s.host) trivial (setMode_frame (setPc_frame (setMem_frame fun a ha => ?_) _) trivial _)
  obtain ⟨hhi, hlo⟩ := not_or.mp ha
  rw [readByte_writeByte, if_neg hlo, readByte_writeByte, if_neg hhi]
  rfl

theorem executeWord_answers (w : Word) (s : State) : ∃ t, executeWord w s = .next t := by
  cases hw : decodeWord w with
  | none => exact ⟨_, executeWord_noRow hw s⟩
  | some i =>
    rw [executeWord_row hw]
    exact everyInstructionAnswersANextState i s

theorem readyHost_image (h : HostSide) : (readyHost h).image ≠ .rejected := by
  cases hi : h.image <;> simp [readyHost, hi]

/-- The state in which the placed word's cycle begins. -/
def placedStart (w : Word) (s : State) : State := cycleStart (placeWord w s) s.host.schedule 0

/-- The placed word is what the next step fetches. -/
theorem execute_placedStart (w : Word) (s : State) : execute (placedStart w s) = executeWord w (placedStart w s) := by
  have hword : wordAtPc (placedStart w s) = w := wordAtPc_placeWord w s
  rw [execute_with_room (toNat_placeAddr_le s), hword]

/-- Settles O57: the placed word's cycle is the next move, and its fetch reads the word. -/
theorem placedWordRunsNext : Obligations.PlacedWordRunsNext := by
  intro s w
  refine ⟨placedStart w s, rfl, wordAtPc_placeWord w s, toNat_placeAddr_le s, placeAddr_of_room,
    Frame.of_setHost (h := s.host) trivial (placeWord_frame w s), ?_⟩
  obtain ⟨t, ht⟩ := executeWord_answers w (placedStart w s)
  have hcycle : phases23 s.host.clock (placedStart w s) = .next (phase3 s.host.clock t) :=
    phases23_of_execute rfl ((execute_placedStart w s).trans ht)
  rw [State.withFetchWord, tableWord_toNat, step_cycle (rest := s.host.schedule) rfl (readyHost_image _)
    (by simp [placeWord]), ht]
  exact hcycle.trans (congrArg Host.Outcome.next (phase3_eq ..))

end Sys2Proof.Machine
end

section
/-! PROOFS. Nested calls (spec/41_control_flow.md R110, R112): what as many returns as calls leave behind. -/

namespace Sys2Proof.Machine

open Sys2Proof.Safety

theorem Frame.trans {c : Changes} {s t u : State} (h : Frame c s t) (h' : Frame c t u) : Frame c s u where
  regs k hk := (h'.regs k hk).trans (h.regs k hk)
  bytes a ha := (h'.bytes a ha).trans (h.bytes a ha)
  index hc := (h'.index hc).trans (h.index hc)
  stack hc := ⟨(h'.stack hc).1.trans (h.stack hc).1, (h'.stack hc).2.trans (h.stack hc).2⟩
  dt hc := (h'.dt hc).trans (h.dt hc)
  st hc := (h'.st hc).trans (h.st hc)
  display hc := ⟨(h'.display hc).1.trans (h.display hc).1, (h'.display hc).2.trans (h.display hc).2⟩
  mode hc := (h'.mode hc).trans (h.mode hc)
  fault hc := (h'.fault hc).trans (h.fault hc)
  host hc := (h'.host hc).trans (h.host hc)
  lastTick := h'.lastTick.trans h.lastTick
  keys := h'.keys.trans h.keys

/-- `t` has the depth of `s` and its entries in use, and differs in the call stack and pc alone. -/
structure SameDepth (s t : State) : Prop where
  sp : t.sp = s.sp
  entries : ∀ k : Fin 24, k.val < s.sp.val → t.stack[k.val] = s.stack[k.val]
  frame : Frame { stack := True } s t

theorem SameDepth.refl (s : State) : SameDepth s s := ⟨rfl, fun _ _ => rfl, Frame.refl _ s⟩

/-- A CALL, something that keeps the depth, and a RET keep the depth and end behind the CALL. -/
theorem call_inner_ret {a : Addr12} {s : State} {inner : State → Option State} (hroom : s.sp.val < 24)
    (hinner : ∀ t, t.sp.val = s.sp.val + 1 → ∃ u, inner t = some u ∧ SameDepth t u) :
    ∃ t u w, exec (.call a) s = .next t ∧ inner t = some u ∧ exec .ret u = .next w ∧ w.pc = s.pc + 2 ∧
      SameDepth s w := by
  obtain ⟨-, hcall, -⟩ := callPushesOrOverflows
  obtain ⟨-, hret, -⟩ := returnPopsOrUnderflows
  obtain ⟨t, ht, htsp, htop, -, hkeep, -, htframe⟩ := hcall a s hroom
  obtain ⟨u, hu, husp, huentries, huframe⟩ := hinner t htsp
  obtain ⟨w, hw, hwsp, hwpc, hwstack, hwframe, -⟩ := hret u s.sp.val hroom (by rw [husp, htsp])
  refine ⟨t, u, w, ht, hu, hw, ?_, Fin.ext hwsp, fun k hk => ?_, Frame.trans (Frame.trans htframe huframe) hwframe⟩
  · rw [hwpc, ← htop]
    exact huentries ⟨s.sp.val, hroom⟩ (show s.sp.val < t.sp.val by omega)
  · rw [hwstack, huentries k (by omega), hkeep k (by omega)]

/-- Nested calls that fit above SP return to the depth they began at, behind the outermost. -/
theorem nestedCalls_sameDepth (calls : List Addr12) (s : State) (hfit : s.sp.val + calls.length ≤ 24) :
    ∃ t, nestedCalls calls s = some t ∧ (calls ≠ [] → t.pc = s.pc + 2) ∧ SameDepth s t := by
  induction calls generalizing s with
  | nil => exact ⟨s, rfl, (absurd rfl ·), SameDepth.refl s⟩
  | cons a inner ih =>
    rw [List.length_cons] at hfit
    have hinner : ∀ t, t.sp.val = s.sp.val + 1 → ∃ u, nestedCalls inner t = some u ∧ SameDepth t u := fun t htsp =>
      (ih t (by omega)).imp fun u ⟨hu, _, hdepth⟩ => ⟨hu, hdepth⟩
    obtain ⟨t, u, w, ht, hu, hw, hpc, hdepth⟩ := call_inner_ret (a := a) (by omega) hinner
    exact ⟨w, by simp only [nestedCalls, ht, hu, hw], fun _ => hpc, hdepth⟩

/-- Settles O9: `nestedCalls_sameDepth` for a nonempty list. -/
theorem nestedCallsReturnBehindTheCall : Obligations.NestedCallsReturnBehindTheCall := by
  intro calls s hne hfit
  obtain ⟨t, ht, hpc, hsp, hentries, hframe⟩ := nestedCalls_sameDepth calls s hfit
  exact ⟨t, ht, hpc hne, hsp, hentries, hframe⟩

end Sys2Proof.Machine
end

section
/-! PROOFS. DRW (spec/44_display.md R171 to R174): the loop of the blit as one exclusive or with the sprite's pixels,
and the collision it reports. -/

namespace Sys2Proof.Machine

open Sys2Proof.Safety

/-! ### Exclusive or with a set of pixels -/

/-- `e` is the blit's state `d` after every pixel of `on` is toggled once: each pixel is the exclusive or, and a hit is
added exactly when a pixel that was set is toggled (R172, R174). -/
structure Toggled (on : Fin 32 → Fin 64 → Prop) (d e : Display × Bool) : Prop where
  pixel : ∀ (r : Fin 32) (c : Fin 64), e.1[r.val][c.val] = true ↔ ¬ (d.1[r.val][c.val] = true ↔ on r c)
  hit : e.2 = true ↔ d.2 = true ∨ ∃ (r : Fin 32) (c : Fin 64), d.1[r.val][c.val] = true ∧ on r c

theorem Toggled.of_empty {on : Fin 32 → Fin 64 → Prop} (hon : ∀ r c, ¬ on r c) (d : Display × Bool) : Toggled on d d where
  pixel r c := by simp [hon]
  hit := by simp [hon]

/-- Toggling one set of pixels and then another, disjoint one is toggling both. -/
theorem Toggled.trans {on on' both : Fin 32 → Fin 64 → Prop} {d e f : Display × Bool} (h : Toggled on d e)
    (h' : Toggled on' e f) (hboth : ∀ r c, both r c ↔ on r c ∨ on' r c) (hdisj : ∀ r c, on r c → ¬ on' r c) :
    Toggled both d f where
  pixel r c := by
    have honce := hdisj r c
    rw [h'.pixel, h.pixel, hboth]
    tauto
  hit := by
    rw [h'.hit, h.hit, or_assoc]
    refine or_congr_right ⟨?_, ?_⟩
    · rintro (⟨r, c, hd, hon⟩ | ⟨r, c, he, hon⟩)
      · exact ⟨r, c, hd, (hboth r c).mpr (.inl hon)⟩
      · refine ⟨r, c, ?_, (hboth r c).mpr (.inr hon)⟩
        have honce := hdisj r c
        rw [h.pixel] at he
        tauto
    · rintro ⟨r, c, hd, hon⟩
      rcases (hboth r c).mp hon with hon | hon
      · exact .inl ⟨r, c, hd, hon⟩
      · refine .inr ⟨r, c, ?_, hon⟩
        have honce := hdisj r c
        rw [h.pixel]
        tauto

/-- One pixel; off the display nothing (R173). -/
theorem toggled_togglePixel (px py : Nat) (d : Display × Bool) :
    Toggled (fun r c => r.val = py ∧ c.val = px) d (togglePixel px py d) := by
  unfold togglePixel
  split
  · next hin =>
    constructor
    · rintro ⟨r, hr⟩ ⟨c, hc⟩
      by_cases hrow : py = r
      · subst hrow
        by_cases hcol : px = c
        · subst hcol
          simp
        · simp [hcol, Ne.symm hcol]
      · simp [hrow, Ne.symm hrow]
    · rw [Bool.or_eq_true]
      refine or_congr_right ⟨fun hset => ⟨⟨py, hin.2⟩, ⟨px, hin.1⟩, hset, rfl, rfl⟩, ?_⟩
      rintro ⟨r, c, hset, rfl, rfl⟩
      exact hset
  · next hout => exact Toggled.of_empty (fun r c ⟨hr, hc⟩ => hout ⟨hc ▸ c.isLt, hr ▸ r.isLt⟩) d

/-! ### A row, and the rows of a sprite -/

/-- The pixels of the first `n` columns of a sprite row (R171). -/
def rowPixels (x0 py : Nat) (row : Byte) (n : Nat) (r : Fin 32) (c : Fin 64) : Prop :=
  r.val = py ∧ x0 ≤ c.val ∧ c.val < x0 + n ∧ row.getLsbD (7 - (c.val - x0)) = true

theorem rowPixels_succ (x0 py : Nat) (row : Byte) (n : Nat) (r : Fin 32) (c : Fin 64) :
    rowPixels x0 py row (n + 1) r c ↔
      rowPixels x0 py row n r c ∨ row.getLsbD (7 - n) = true ∧ r.val = py ∧ c.val = x0 + n := by
  by_cases hlast : c.val = x0 + n
  · have hoffset : c.val - x0 = n := by omega
    simp [rowPixels, hlast, and_comm]
  · have hbounds : c.val < x0 + (n + 1) ↔ c.val < x0 + n := by omega
    simp [rowPixels, hlast, hbounds]

theorem toggled_columns (x0 py : Nat) (row : Byte) (n : Nat) (d : Display × Bool) :
    Toggled (rowPixels x0 py row n) d
      ((List.range n).foldl (fun d c => if row.getLsbD (7 - c) then togglePixel (x0 + c) py d else d) d) := by
  induction n with
  | zero => exact Toggled.of_empty (fun r c h => by simp only [rowPixels] at h; omega) d
  | succ n ih =>
    rw [List.range_succ, List.foldl_append, List.foldl_cons, List.foldl_nil]
    split
    · next hbit =>
      refine Toggled.trans ih (toggled_togglePixel ..) (fun r c => ?_) (fun r c => ?_)
      · simp only [rowPixels_succ, hbit, true_and]
      · simp only [rowPixels]
        omega
    · next hbit =>
      have hsame : rowPixels x0 py row (n + 1) = rowPixels x0 py row n := by
        funext r c
        simp [rowPixels_succ, hbit]
      rw [hsame]
      exact ih

theorem toggled_blitRow (x0 py : Nat) (row : Byte) (d : Display × Bool) :
    Toggled (rowPixels x0 py row 8) d (blitRow x0 py row d) :=
  toggled_columns x0 py row 8 d

/-- The pixels of a sprite whose first row is at `y0` (R171 to R173). -/
def spritePixels (x0 y0 : Nat) (sprite : List Byte) (r : Fin 32) (c : Fin 64) : Prop :=
  ∃ k, ∃ h : k < sprite.length, rowPixels x0 (y0 + k) sprite[k] 8 r c

theorem spritePixels_cons (x0 y0 : Nat) (row : Byte) (sprite : List Byte) (r : Fin 32) (c : Fin 64) :
    spritePixels x0 y0 (row :: sprite) r c ↔
      rowPixels x0 y0 row 8 r c ∨ spritePixels x0 (y0 + 1) sprite r c := by
  have hshift : ∀ k, y0 + 1 + k = y0 + (k + 1) := fun k => by omega
  constructor
  · rintro ⟨_ | k, hk, hon⟩
    · exact .inl hon
    · exact .inr ⟨k, Nat.lt_of_succ_lt_succ hk, hshift k ▸ hon⟩
  · rintro (hon | ⟨k, hk, hon⟩)
    · exact ⟨0, Nat.succ_pos _, hon⟩
    · exact ⟨k + 1, Nat.succ_lt_succ hk, hshift k ▸ hon⟩

theorem toggled_blitRows (x0 y0 : Nat) (sprite : List Byte) (d : Display × Bool) :
    Toggled (spritePixels x0 y0 sprite) d (blitRows x0 y0 sprite d) := by
  induction sprite generalizing y0 d with
  | nil => exact Toggled.of_empty (fun r c ⟨k, hk, _⟩ => absurd hk (Nat.not_lt_zero k)) d
  | cons row sprite ih =>
    refine Toggled.trans (toggled_blitRow x0 y0 row d) (ih (y0 + 1) _) (spritePixels_cons x0 y0 row sprite) ?_
    rintro r c ⟨hrow, -⟩ ⟨k, -, hrest, -⟩
    omega

/-! ### DRW (R172 to R174) -/

/-- The rows at I. -/
def spriteAt (s : State) (n : Nat) : List Byte := (List.range n).map fun k => readByte s.mem (s.i.toNat + k)

theorem spritePixels_spriteAt (s : State) (x0 y0 n : Nat) (r : Fin 32) (c : Fin 64) :
    spritePixels x0 y0 (spriteAt s n) r c ↔ SpriteToggles s x0 y0 n r c := by
  simp only [spritePixels, spriteAt, rowPixels, SpriteToggles, List.length_map, List.length_range, List.getElem_map,
    List.getElem_range]
  constructor
  · rintro ⟨k, hk, hr, hlo, hhi, hbit⟩
    have hoffset : r.val - y0 = k := by omega
    exact ⟨by omega, by omega, hlo, hhi, hoffset ▸ hbit⟩
  · rintro ⟨htop, hbottom, hlo, hhi, hbit⟩
    exact ⟨r.val - y0, by omega, by omega, hlo, hhi, hbit⟩

/-- What the blit leaves of the display, and the collision it reports. -/
def drawn (x y : Reg) (n : Nibble) (s : State) : Display × Bool :=
  blitRows (readV x s).toNat (readV y s).toNat (spriteAt s n.toNat) (s.display, false)

theorem exec_drw_draws (x y : Reg) {n : Nibble} {s : State} (hin : ∀ k, k < n.toNat → s.i.toNat + k ≤ 0xFFF) :
    exec (.drw x y n) s = .next (advance
      (setDirty true (setFlag (flagByte (drawn x y n s).2) (setDisplay (drawn x y n s).1 s)))) := by
  have haddr : effectiveAddr s 0 = s.i.toNat := rfl
  rcases readBytes_cases s.mem s.i.toNat n.toNat with ⟨hread, -⟩ | ⟨k, hk, -, hout, -⟩
  · simp only [exec, execDrw, haddr, hread]
    rfl
  · exact absurd (hin k hk) hout.not_ge

theorem toggled_drawn (x y : Reg) (n : Nibble) (s : State) :
    Toggled (SpriteToggles s (readV x s).toNat (readV y s).toNat n.toNat) (s.display, false) (drawn x y n s) := by
  have h := toggled_blitRows (readV x s).toNat (readV y s).toNat (spriteAt s n.toNat) (s.display, false)
  have hset : spritePixels (readV x s).toNat (readV y s).toNat (spriteAt s n.toNat) =
      SpriteToggles s (readV x s).toNat (readV y s).toNat n.toNat :=
    funext₂ fun r c => propext (spritePixels_spriteAt s _ _ _ r c)
  exact hset ▸ h

/-- Settles O25: the blit toggles the sprite's pixels once, and VF is the collision it reports. -/
theorem drawXorsAndReportsCollision : Obligations.DrawXorsAndReportsCollision := by
  intro x y n s
  refine ⟨toNat_wordXYN 0xD x y n, fun hin => ⟨_, exec_drw_draws x y hin, rfl, ?_⟩⟩
  obtain ⟨hpixel, hhit⟩ := toggled_drawn x y n s
  have hvf : ∀ b d, readV 15 (advance (setDirty true (setFlag (flagByte b) (setDisplay d s)))) = flagByte b :=
    fun b d => readV_writeV_self vf (flagByte b) (setDisplay d s)
  refine ⟨hpixel, fun hcollision => ?_, fun hfree => ?_, rfl,
    setPc_frame (writeV_frame (setDisplay_frame trivial _ true s) rfl _) _⟩
  · rw [hvf, hhit.mpr (.inr hcollision), flagByte, if_pos rfl]
  · have hmiss : (drawn x y n s).2 = false := by
      rw [← Bool.not_eq_true, hhit]
      rintro (h | ⟨r, c, hset, htoggle⟩)
      · cases h
      · exact hfree r c hset htoggle
    rw [hvf, hmiss, flagByte, if_neg nofun]

/-- Settles O26: the second answer of `exec_drw_cases`. -/
theorem drawFaultsBeforeDrawing : Obligations.DrawFaultsBeforeDrawing := by
  intro x y n s hn hout
  rcases exec_drw_cases x y n s with ⟨d, f, -, hin⟩ | ⟨k, hk, hexec, hkout, hlow⟩
  · have hlast := hin (n.toNat - 1) (by omega)
    omega
  · exact ⟨_, _, hexec, raised_at_lowest _ n.isLt.le hk hkout hlow⟩

end Sys2Proof.Machine
end
